-- ==== Sys2Proof/Config.lean ====
section
/-! DEFINITION. What an implementation of the block fixes: the one open parameter `LENW` (spec/00_scope.md R8,
spec/92_eei_decisions.md D5, spec/93_implementation_defined.md U14).

The model takes `LENW` as an argument: it is held in `Machine.State` and no step changes it, so a statement about
every state is a statement about every width. See assumption log 1. The constants the source hardwires (R7) are in
Machine/Constants.lean. -/

namespace Sys2Proof

/-- The implementation parameter of R8. -/
structure Config where
  /-- `LENW`: the width in bits of every byte-length, bank-size and bank-count operand port. -/
  lenw : Nat
  deriving DecidableEq, Repr

/-- `RESW = 2 * LENW`: the width in bits of every arithmetic result port (R8). -/
def Config.resw (c : Config) : Nat := 2 * c.lenw

/-- The constraint `LENW >= 23` of R8. -/
def Config.wf (c : Config) : Bool := decide (23 ≤ c.lenw)

/-- The default `LENW = 32` of R8. -/
def Config.standard : Config := { lenw := 32 }

end Sys2Proof
end

