-- ==== Sys2Proof/Word.lean ====
section
/-! DEFINITION. The block's plainest values: bytes, nibbles and the 16-byte header image
(spec/00_scope.md R9, R10; spec/20_memory.md R24).

Numbers of `LENW` or `RESW` bits (lengths, sizes, counts, offsets) are natural numbers here, because the spec's
arithmetic is "over the mathematical natural numbers" (R9, R63); their port widths are checked in WellFormed.lean
(operands) and in Safety.lean (results). See assumption log 2. -/

namespace Sys2Proof

/-- An 8-bit port or header cell; bit 0 is the least significant (R10). -/
abbrev Byte := BitVec 8

/-- A 4-bit mapper nibble (R19). -/
abbrev Nibble := BitVec 4

/-- The value of the 4-bit `op` port (R41). -/
abbrev OpCode := BitVec 4

/-- The header image: exactly sixteen cells `hdr[0]` to `hdr[15]`, indexed by file offset (R24). -/
abbrev Header := Vector Byte 16

end Sys2Proof
end

