-- ==== Sys2Proof/Syntax.lean ====
section
/-! DEFINITION. The seven operations as syntax (spec/30_encoding.md R42, R43), and the operand ports a request is
made on before it is decoded (R40, R43, R47). -/

namespace Sys2Proof

/-- The seven mnemonics of R42, one per row of spec/opcode_table.json. -/
inductive Mnemonic where
  | henc | hdec | b2bk | padl | isp2 | bk2b | rlay
  deriving DecidableEq, Repr

/-- One request of a defined operation: the operation and every operand of its format, in the port order of R43.
Operands of `LENW`-wide ports are naturals (bounded by `Instr.wf`); 8-bit and 1-bit ports have their exact type. -/
inductive Instr where
  /-- HENC, format E (R55): header fields to sixteen bytes. -/
  | henc (prgBanks chrBanks : Nat) (mirroringVertical hasBattery hasTrainer fourScreenVram : Bool)
      (mapperNumber : Byte)
  /-- HDEC, format D (R56): sixteen bytes to header fields. -/
  | hdec (hdr : Header)
  /-- B2BK, format S2 (R66): bytes to banks. -/
  | b2bk (byteLength bankSize : Nat)
  /-- PADL, format S2 (R67): padded length. -/
  | padl (byteLength bankSize : Nat)
  /-- ISP2, format S1 (R68): power-of-two test. -/
  | isp2 (n : Nat)
  /-- BK2B, format M (R69): banks to bytes. -/
  | bk2b (bankCount bankSize : Nat)
  /-- RLAY, format L (R70): region layout of an image. -/
  | rlay (hasTrainer : Bool) (prgBanks chrBanks : Byte)
  deriving DecidableEq, Repr

/-- The operation a request names. -/
def Instr.mnemonic : Instr → Mnemonic
  | .henc .. => .henc
  | .hdec .. => .hdec
  | .b2bk .. => .b2bk
  | .padl .. => .padl
  | .isp2 .. => .isp2
  | .bk2b .. => .bk2b
  | .rlay .. => .rlay

/-- Operand ports of format E (R43). -/
structure FormatE where
  prgBanks : Nat
  chrBanks : Nat
  mirroringVertical : Bool
  hasBattery : Bool
  hasTrainer : Bool
  fourScreenVram : Bool
  mapperNumber : Byte
  deriving DecidableEq, Repr

/-- Operand ports of format D (R43). -/
structure FormatD where
  hdr : Header
  deriving DecidableEq, Repr

/-- Operand ports of format S2 (R43). -/
structure FormatS2 where
  byteLength : Nat
  bankSize : Nat
  deriving DecidableEq, Repr

/-- Operand ports of format S1 (R43). -/
structure FormatS1 where
  n : Nat
  deriving DecidableEq, Repr

/-- Operand ports of format M (R43). -/
structure FormatM where
  bankCount : Nat
  bankSize : Nat
  deriving DecidableEq, Repr

/-- Operand ports of format L (R43). -/
structure FormatL where
  hasTrainer : Bool
  prgBanks : Byte
  chrBanks : Byte
  deriving DecidableEq, Repr

/-- Everything the host drives when it makes a request: the `op` port and the operand ports of every format. Only
the ports of the requested operation's format matter (R47). DESIGN CHOICE (assumption log 7): each format has its own
group of ports, since the spec does not say whether two formats share a wire. -/
structure Ports where
  op : OpCode
  e : FormatE
  d : FormatD
  s2 : FormatS2
  s1 : FormatS1
  m : FormatM
  l : FormatL
  deriving DecidableEq, Repr

/-- Why ports name no operation: the only reason is a reserved `op` code (R49, R84). -/
inductive DecodeError where
  | reservedOp (op : OpCode)
  deriving DecidableEq, Repr

/-- One port value of a request written as a tuple (R53): the port's width in bits and the number on it. -/
structure PortWord where
  width : Nat
  value : Nat
  deriving DecidableEq, Repr

/-- Why a tuple of port words is no request. -/
inductive WordsError where
  /-- There is no word for the `op` port, or it is not 4 bits wide, or its value does not fit 4 bits. -/
  | badOpWord
  /-- The `op` code is reserved (R49). -/
  | reservedOp (op : OpCode)
  /-- The operand words are not those of the operation's format, in number or in width (R43). -/
  | wrongPorts (m : Mnemonic)
  /-- An operand value does not fit its port. -/
  | valueTooWide (m : Mnemonic)
  deriving DecidableEq, Repr

end Sys2Proof
end

