-- ==== Sys2Proof/WellFormed.lean ====
section
/-! DEFINITION. Which requests the ports can carry: every operand of a `LENW`-wide port is below `2^LENW`
(spec/30_encoding.md R43, spec/41_bank_sizer.md R63). The 8-bit and 1-bit ports and the sixteen header ports are exact
by their types, so a mapper number above 255, a flag that is no Boolean and a header of another length are not terms
(spec/93_implementation_defined.md U9, U12, U13). -/

namespace Sys2Proof

/-- The value fits an unsigned port of `width` bits. -/
def fitsPort (width n : Nat) : Bool := decide (n < 2 ^ width)

/-- The request can be presented on ports of the width `LENW = lenw` (R43, U13, U14). -/
def Instr.wf (lenw : Nat) : Instr → Bool
  | .henc prgBanks chrBanks _ _ _ _ _ => fitsPort lenw prgBanks && fitsPort lenw chrBanks
  | .hdec _ => true
  | .b2bk byteLength bankSize => fitsPort lenw byteLength && fitsPort lenw bankSize
  | .padl byteLength bankSize => fitsPort lenw byteLength && fitsPort lenw bankSize
  | .isp2 n => fitsPort lenw n
  | .bk2b bankCount bankSize => fitsPort lenw bankCount && fitsPort lenw bankSize
  | .rlay _ _ _ => true

end Sys2Proof
end

