-- ==== Sys2Proof/Decode.lean ====
section
/-! DEFINITION. Operation codes, decoding a request's ports into an instruction, the encoder, and the same for the
written tuple of port words (spec/30_encoding.md R41 to R43, R47, R49, R50, R53). There is no flat bit-level frame
(R40): a request is the value of its ports. -/

namespace Sys2Proof

/-! ### Operation codes (R42) -/

/-- The `op` code of each operation: the table of R42. -/
def opCode : Mnemonic → OpCode
  | .henc => 0x1
  | .hdec => 0x2
  | .b2bk => 0x3
  | .padl => 0x4
  | .isp2 => 0x5
  | .bk2b => 0x6
  | .rlay => 0x7

/-- The operation an `op` code selects; `none` for the reserved codes 0x0 and 0x8 to 0xF (R42, R49). `op` alone
decides (R50). -/
def mnemonicOf (op : OpCode) : Option Mnemonic :=
  match op.toNat with
  | 1 => some .henc
  | 2 => some .hdec
  | 3 => some .b2bk
  | 4 => some .padl
  | 5 => some .isp2
  | 6 => some .bk2b
  | 7 => some .rlay
  | _ => none

/-! ### Ports to instruction -/

/-- The instruction on the ports: the operands of the named operation's own format (R43), every other port ignored
(R47). -/
def operandsFrom (p : Ports) : Mnemonic → Instr
  | .henc => .henc p.e.prgBanks p.e.chrBanks p.e.mirroringVertical p.e.hasBattery p.e.hasTrainer
      p.e.fourScreenVram p.e.mapperNumber
  | .hdec => .hdec p.d.hdr
  | .b2bk => .b2bk p.s2.byteLength p.s2.bankSize
  | .padl => .padl p.s2.byteLength p.s2.bankSize
  | .isp2 => .isp2 p.s1.n
  | .bk2b => .bk2b p.m.bankCount p.m.bankSize
  | .rlay => .rlay p.l.hasTrainer p.l.prgBanks p.l.chrBanks

/-- Decoding, total on any ports: a reserved `op` is rejected by name before any operand is looked at (R49, R84). -/
def decode (p : Ports) : Except DecodeError Instr :=
  match mnemonicOf p.op with
  | some m => .ok (operandsFrom p m)
  | none => .error (.reservedOp p.op)

/-- The host can present these ports to a block of width `lenw`: the operands of the named format fit; a reserved
`op` has no operands (R43, R47, U13). -/
def Ports.presentable (lenw : Nat) (p : Ports) : Bool :=
  match decode p with
  | .ok i => i.wf lenw
  | .error _ => true

/-! ### Instruction to ports -/

/-- The `op` port at `op` and every operand port at 0. -/
def quietPorts (op : OpCode) : Ports where
  op := op
  e := ⟨0, 0, false, false, false, false, 0⟩
  d := ⟨Vector.replicate 16 0⟩
  s2 := ⟨0, 0⟩
  s1 := ⟨0⟩
  m := ⟨0, 0⟩
  l := ⟨false, 0, 0⟩

/-- The ports a host drives for an instruction (R43). Ports outside the format may hold any value (R47); DESIGN
CHOICE (assumption log 8): this encoder leaves them at 0. -/
def encode (i : Instr) : Ports :=
  match i with
  | .henc prg chr v b t f m => { quietPorts (opCode .henc) with e := ⟨prg, chr, v, b, t, f, m⟩ }
  | .hdec hdr => { quietPorts (opCode .hdec) with d := ⟨hdr⟩ }
  | .b2bk n b => { quietPorts (opCode .b2bk) with s2 := ⟨n, b⟩ }
  | .padl n b => { quietPorts (opCode .padl) with s2 := ⟨n, b⟩ }
  | .isp2 n => { quietPorts (opCode .isp2) with s1 := ⟨n⟩ }
  | .bk2b k b => { quietPorts (opCode .bk2b) with m := ⟨k, b⟩ }
  | .rlay t prg chr => { quietPorts (opCode .rlay) with l := ⟨t, prg, chr⟩ }

/-! ### The written tuple of port words (R53) -/

/-- The widths of the operand ports of each operation, in the order of R43. -/
def operandWidths (lenw : Nat) : Mnemonic → List Nat
  | .henc => [lenw, lenw, 1, 1, 1, 1, 8]
  | .hdec => List.replicate 16 8
  | .b2bk => [lenw, lenw]
  | .padl => [lenw, lenw]
  | .isp2 => [lenw]
  | .bk2b => [lenw, lenw]
  | .rlay => [1, 8, 8]

/-- The operand values in the order of R43, each as the unsigned number on its port; a Boolean is its bit (R9). -/
def operandValues : Instr → List Nat
  | .henc prg chr v b t f m => [prg, chr, v.toNat, b.toNat, t.toNat, f.toNat, m.toNat]
  | .hdec hdr => hdr.toList.map BitVec.toNat
  | .b2bk n b => [n, b]
  | .padl n b => [n, b]
  | .isp2 n => [n]
  | .bk2b k b => [k, b]
  | .rlay t prg chr => [t.toNat, prg.toNat, chr.toNat]

/-- The tuple of R53: the `op` code, then every operand at its port width (assumption log 14). -/
def encodeWords (lenw : Nat) (i : Instr) : List PortWord :=
  ⟨4, (opCode i.mnemonic).toNat⟩ ::
    List.zipWith PortWord.mk (operandWidths lenw i.mnemonic) (operandValues i)

/-- The instruction whose operand values are `vs`, in the order of R43. -/
def operandsOfValues (vs : List Nat) : Mnemonic → Instr
  | .henc => .henc (vs.getD 0 0) (vs.getD 1 0) (vs.getD 2 0 == 1) (vs.getD 3 0 == 1) (vs.getD 4 0 == 1)
      (vs.getD 5 0 == 1) (BitVec.ofNat 8 (vs.getD 6 0))
  | .hdec => .hdec (Vector.ofFn fun k => BitVec.ofNat 8 (vs.getD k.val 0))
  | .b2bk => .b2bk (vs.getD 0 0) (vs.getD 1 0)
  | .padl => .padl (vs.getD 0 0) (vs.getD 1 0)
  | .isp2 => .isp2 (vs.getD 0 0)
  | .bk2b => .bk2b (vs.getD 0 0) (vs.getD 1 0)
  | .rlay => .rlay (vs.getD 0 0 == 1) (BitVec.ofNat 8 (vs.getD 1 0)) (BitVec.ofNat 8 (vs.getD 2 0))

/-- Reading a tuple of R53 back, total on any list of port words, with a name for each reason it is no request. -/
def decodeWords (lenw : Nat) (ws : List PortWord) : Except WordsError Instr :=
  match ws with
  | [] => .error .badOpWord
  | w :: operands =>
    if w.width = 4 ∧ w.value < 16 then
      match mnemonicOf (BitVec.ofNat 4 w.value) with
      | none => .error (.reservedOp (BitVec.ofNat 4 w.value))
      | some m =>
        if operands.map PortWord.width = operandWidths lenw m then
          if operands.all (fun o => fitsPort o.width o.value) then
            .ok (operandsOfValues (operands.map PortWord.value) m)
          else .error (.valueTooWide m)
        else .error (.wrongPorts m)
    else .error .badOpWord

/-! ### The host's table words -/

/-- The ports a word of spec/opcode_table.json stands for: the table's bits are the `op` port (mask 0xF) and the
operand ports are 0. DESIGN CHOICE (assumption log 9): bits of the word above the `op` port reach no port, since R40
defines no flat frame. -/
def tableWordPorts (nbits w : Nat) : Ports := quietPorts (BitVec.ofNat 4 (w % 2 ^ nbits))

/-- The instruction the decoder reads from a table word; `none` where it refuses. -/
def decodeTableWord (nbits w : Nat) : Option Instr := (decode (tableWordPorts nbits w)).toOption

end Sys2Proof
end

