-- ==== Sys2Proof/Machine/Constants.lean ====
section
/-! DEFINITION. The constants hardwired in the block (spec/00_scope.md R7, spec/41_bank_sizer.md R62). No operation
reads or writes them through the interface (spec/10_state.md R17). -/

namespace Sys2Proof.Machine

/-- The signature `SIG[0..3]`, offset 0 first (R7). -/
def signature : Vector Byte 4 := #v[0x4E, 0x45, 0x53, 0x1A]

/-- `PRG_BANK`: bytes of a program bank (R7). -/
def prgBankSize : Nat := 16384

/-- `CHR_BANK`: bytes of a graphics bank (R7). -/
def chrBankSize : Nat := 8192

/-- `HDR_SIZE`: bytes of the header (R7). -/
def headerSize : Nat := 16

/-- `TRAINER_SIZE`: bytes of the trainer, when there is one (R7). -/
def trainerSize : Nat := 512

/-- The largest value of the header's one-byte bank-count fields (R7, R55). -/
def maxBankCount : Nat := 255

end Sys2Proof.Machine
end

