-- ==== Sys2Proof/Machine/State.lean ====
section
/-! DEFINITION. What a transaction carries and what the machine holds (spec/10_state.md, spec/30_encoding.md R44 to
R46, spec/70_reset_and_hazards.md R96, R100).

THE BLOCK HAS NO ARCHITECTURAL STATE: no register, no flag, no latch, no memory, no program counter (R14 to R18,
R22, R23). `State` therefore holds what the spec puts OUTSIDE the block and a run is made of: the parameter `LENW` the
model takes as an argument (R8), the requests the host has still to make (R13, R98), and the transactions made so far
(R100: "the sequence of (request, response) pairs and nothing else"). No operation reads any of the three; assumption
logs 1, 4 and 5 declare them the model's own fields. -/

namespace Sys2Proof.Machine

/-! ### Responses (R44 to R46) -/

/-- The `status` codes that exist; the codes 5 to 7 have no member, being "never produced" (R45, U20). -/
inductive Status where
  | ok | formatError | rangeError | badArg | illegalOp
  deriving DecidableEq, Repr

/-- The `errField` codes that a response can carry; 0 (NONE), 6 and 7 have no member (R46, U20). -/
inductive ErrField where
  | signature | prgBanks | chrBanks | bankSize | op
  deriving DecidableEq, Repr

/-- The HeaderFields record that HDEC returns (R19, R44). -/
structure HeaderFields where
  magic : Vector Byte 4
  prgBanks : Byte
  chrBanks : Byte
  mirroringVertical : Bool
  hasBattery : Bool
  hasTrainer : Bool
  fourScreenVram : Bool
  mapperLowNibble : Nibble
  mapperHighNibble : Nibble
  mapperNumber : Byte
  reserved : Vector Byte 8
  deriving DecidableEq, Repr

/-- The six numbers RLAY returns (R44, R70). -/
structure RegionLayout where
  trainerLen : Nat
  prgOffset : Nat
  prgLen : Nat
  chrOffset : Nat
  chrLen : Nat
  totalLen : Nat
  deriving DecidableEq, Repr

/-- The result ports of a response, by the operation whose format they are (R44). Ports outside that format are
absent (R47, U18; assumption log 10). -/
inductive Result where
  /-- HENC: `hdr[0..15]`. -/
  | header (hdr : Header)
  /-- HDEC: the HeaderFields record. -/
  | fields (f : HeaderFields)
  /-- B2BK: `banks`. -/
  | banks (n : Nat)
  /-- PADL: `paddedLength`. -/
  | paddedLength (n : Nat)
  /-- ISP2: `isPow2`. -/
  | isPow2 (b : Bool)
  /-- BK2B: `bytes`. -/
  | bytes (n : Nat)
  /-- RLAY: the six layout numbers. -/
  | layout (l : RegionLayout)
  deriving DecidableEq, Repr

/-- A response as its ports: a port that carries no value is `none`, never a zero (R44, R46, R47, U18). -/
structure Response where
  status : Status
  result : Option Result := none
  errField : Option ErrField := none
  errValue : Option Nat := none
  errBytes : Option (Vector Byte 4) := none
  deriving DecidableEq, Repr

/-- Which bank count a RangeError names (R80). -/
inductive CountField where
  | prgBanks | chrBanks
  deriving DecidableEq, Repr

/-- The complete list of exceptions of the block, with the value each records (R80). -/
inductive Exn where
  /-- FormatError: the four bytes received instead of the signature (R81). -/
  | formatError (received : Vector Byte 4)
  /-- RangeError: the count field refused and the count supplied (R82). -/
  | rangeError (field : CountField) (count : Nat)
  /-- BadArg: the bank size refused, which is 0 (R83). -/
  | badArg (bankSize : Nat)
  /-- IllegalOp: the reserved `op` code (R84). -/
  | illegalOp (op : OpCode)
  deriving DecidableEq, Repr

/-! ### Transactions and the state of a run -/

/-- A request as the block takes it: a defined operation with its operands, or a reserved `op` code, of which no
operand is examined (R40, R84). -/
inductive Request where
  | op (i : Instr)
  | reserved (op : OpCode)
  deriving DecidableEq, Repr

/-- One request and its response: the unit of execution (R40). -/
structure Transaction where
  request : Request
  response : Response
  deriving DecidableEq, Repr

/-- Everything the machine of a run holds. None of it is the block's (R14, R18): see the head of this file. -/
structure State where
  /-- The implementation parameter `LENW` (R8); the model's own field, changed by no step (assumption log 1). -/
  cfg : Config
  /-- The ports of the requests the host has still to make, the next one first (R13, R98; assumption log 4). -/
  pending : List Ports
  /-- The transactions completed so far, oldest first: the observable result of the run (R100; assumption log 5). -/
  trace : List Transaction
  deriving DecidableEq, Repr

/-- After reset (R22, R94, R96): nothing to initialise in the block, no response yet, no request made. `LENW` is the
default 32 of R8, DESIGN CHOICE (assumption log 1): an implementation fixes it. -/
def State.reset : State where
  cfg := Config.standard
  pending := []
  trace := []

/-! ### Why a step can stop -/

/-- Faults that stop the machine: NONE. Every exception of the block (R80) is a response, after which the block goes
on (R85, R88), so no step raises a fault. -/
inductive Fault where
  deriving DecidableEq, Repr

/-- Refusals: a step has no meaning. -/
inductive Refusal where
  /-- Raised by exec's arm of an instruction that has no meaning yet (none has this arm now); safe. -/
  | notModelled (mnemonic : String)
  /-- Raised by `step` where the next pending request has an operand of `2^LENW` or more: such a request cannot be
  presented on the ports (R43, U13, U14: "refuse"); safe, since nothing is claimed of a request that cannot be made
  (assumption log 3). -/
  | notPresentable
  deriving DecidableEq, Repr

end Sys2Proof.Machine
end

