-- ==== Sys2Proof/Machine/Flags.lean ====
section
/-! DEFINITION. The four header flags as bits of control byte 1, and the numeric codes of the response's `status`
and `errField` ports (spec/20_memory.md R26, spec/30_encoding.md R45, R46). The block has no condition flag:
no operation writes one (spec/10_state.md R16). -/

namespace Sys2Proof.Machine

/-- A Boolean as a byte, so that `b << k` shifts its bit (R9). -/
def flagByte (b : Bool) : Byte := (BitVec.ofBool b).zeroExtend 8

/-- Bits 3:0 of control byte 1: `fourScreenVram<<3 | hasTrainer<<2 | hasBattery<<1 | mirroringVertical` (R26). -/
def packFlags (mirroringVertical hasBattery hasTrainer fourScreenVram : Bool) : Byte :=
  (flagByte fourScreenVram <<< 3) ||| (flagByte hasTrainer <<< 2) ||| (flagByte hasBattery <<< 1)
    ||| flagByte mirroringVertical

/-- `mirroringVertical`, bit 0 of control byte 1 (R26). -/
def mirroringFlag (controlByte1 : Byte) : Bool := controlByte1.getLsbD 0

/-- `hasBattery`, bit 1 of control byte 1 (R26). -/
def batteryFlag (controlByte1 : Byte) : Bool := controlByte1.getLsbD 1

/-- `hasTrainer`, bit 2 of control byte 1 (R26). -/
def trainerFlag (controlByte1 : Byte) : Bool := controlByte1.getLsbD 2

/-- `fourScreenVram`, bit 3 of control byte 1 (R26). -/
def fourScreenFlag (controlByte1 : Byte) : Bool := controlByte1.getLsbD 3

/-- The number on the 3-bit `status` port (R45). -/
def statusCode : Status → BitVec 3
  | .ok => 0
  | .formatError => 1
  | .rangeError => 2
  | .badArg => 3
  | .illegalOp => 4

/-- The number on the 3-bit `errField` port (R46). -/
def errFieldCode : ErrField → BitVec 3
  | .signature => 1
  | .prgBanks => 2
  | .chrBanks => 3
  | .bankSize => 4
  | .op => 5

end Sys2Proof.Machine
end

