-- ==== Sys2Proof/Machine/Operands.lean ====
section
/-! DEFINITION. Assembling and taking apart the header (the only operand assembly of the block, spec/30_encoding.md
R48), and the arithmetic the Bank Sizer shares (spec/41_bank_sizer.md R61 to R70). There are no immediates and no
addressing modes (R38, R48). -/

namespace Sys2Proof.Machine

/-! ### The header image (R24 to R28) -/

/-- `v[7:0]` of a count, the value of a one-byte count field (R55). -/
def countByte (n : Nat) : Byte := BitVec.ofNat 8 n

/-- Byte 6: `(mapperNumber & 0x0F) << 4 | flags` (R26). -/
def controlByte1 (mirroringVertical hasBattery hasTrainer fourScreenVram : Bool) (mapperNumber : Byte) : Byte :=
  ((mapperNumber &&& 0x0F) <<< 4) ||| packFlags mirroringVertical hasBattery hasTrainer fourScreenVram

/-- Byte 7: `mapperNumber & 0xF0`, bits 3:0 zero (R27). -/
def controlByte2 (mapperNumber : Byte) : Byte := mapperNumber &&& 0xF0

/-- The sixteen bytes of R25, in file order: signature, counts, control bytes, eight zero bytes (R28). -/
def packHeader (prgBanks chrBanks : Nat) (mirroringVertical hasBattery hasTrainer fourScreenVram : Bool)
    (mapperNumber : Byte) : Header :=
  #v[signature[0], signature[1], signature[2], signature[3], countByte prgBanks, countByte chrBanks,
    controlByte1 mirroringVertical hasBattery hasTrainer fourScreenVram mapperNumber, controlByte2 mapperNumber,
    0, 0, 0, 0, 0, 0, 0, 0]

/-- Bytes 0 to 3 of a header image (R25). -/
def signatureBytes (hdr : Header) : Vector Byte 4 := #v[hdr[0], hdr[1], hdr[2], hdr[3]]

/-- `mapperLowNibble = hdr[6] >> 4` (R56). -/
def mapperLow (controlByte1 : Byte) : Nibble := (controlByte1 >>> 4).truncate 4

/-- `mapperHighNibble = hdr[7] >> 4` (R56). -/
def mapperHigh (controlByte2 : Byte) : Nibble := (controlByte2 >>> 4).truncate 4

/-- `mapperNumber = (byte7 & 0xF0) | (byte6 >> 4)` (R27, R56). -/
def mapperOf (controlByte1 controlByte2 : Byte) : Byte := (controlByte2 &&& 0xF0) ||| (controlByte1 >>> 4)

/-- `reserved[k] = hdr[8 + k]` (R28). -/
def reservedBytes (hdr : Header) : Vector Byte 8 :=
  #v[hdr[8], hdr[9], hdr[10], hdr[11], hdr[12], hdr[13], hdr[14], hdr[15]]

/-- All fields by the inverse bit operations (R56); byte 7 bits 3:0 are ignored (R27). -/
def unpackHeader (hdr : Header) : HeaderFields where
  magic := signatureBytes hdr
  prgBanks := hdr[4]
  chrBanks := hdr[5]
  mirroringVertical := mirroringFlag hdr[6]
  hasBattery := batteryFlag hdr[6]
  hasTrainer := trainerFlag hdr[6]
  fourScreenVram := fourScreenFlag hdr[6]
  mapperLowNibble := mapperLow hdr[6]
  mapperHighNibble := mapperHigh hdr[7]
  mapperNumber := mapperOf hdr[6] hdr[7]
  reserved := reservedBytes hdr

/-- The header as one 128-bit vector, byte `i` at bits `8*i+7 : 8*i` (R24): bit `j` is bit `j % 8` of byte `j / 8`.
No operation uses it. -/
def flattenHeader (hdr : Header) : BitVec 128 :=
  BitVec.ofFnLE fun j : Fin 128 => (hdr[j.val / 8]'(by omega)).getLsbD (j.val % 8)

/-- The header whose 128-bit vector is `v` (R24). -/
def unflattenHeader (v : BitVec 128) : Header := Vector.ofFn fun i => v.extractLsb' (8 * i.val) 8

/-! ### Bank arithmetic (R61 to R70) -/

/-- `ceil(n / b)`, "computed without wrap-around" as `floor((n + b - 1) / b)`, for `b > 0` (R66). -/
def ceilDiv (n b : Nat) : Nat := (n + b - 1) / b

/-- The length padded to a whole number of banks (R67). -/
def paddedTo (n b : Nat) : Nat := ceilDiv n b * b

/-- The identity `n > 0 && (n & (n-1)) == 0`, the subtraction taken only for `n > 0` (R68, R78). -/
def isPowerOfTwo (n : Nat) : Bool := decide (0 < n) && ((n &&& (n - 1)) == 0)

/-- The full product, no truncation (R69). -/
def banksToBytes (bankCount bankSize : Nat) : Nat := bankCount * bankSize

/-- The region table of the ROM image (R32, R70). -/
def regionLayout (hasTrainer : Bool) (prgBanks chrBanks : Byte) : RegionLayout :=
  let trainerLen := if hasTrainer then trainerSize else 0
  let prgOffset := headerSize + trainerLen
  let prgLen := banksToBytes prgBanks.toNat prgBankSize
  let chrOffset := prgOffset + prgLen
  let chrLen := banksToBytes chrBanks.toNat chrBankSize
  { trainerLen, prgOffset, prgLen, chrOffset, chrLen, totalLen := headerSize + trainerLen + prgLen + chrLen }

end Sys2Proof.Machine
end

