-- ==== Sys2Proof/Machine/Ops.lean ====
section
/-! DEFINITION. The shared operations of a transaction: taking the next request, answering, raising (spec/30_encoding.md
R40, spec/60_exceptions.md R80 to R88). There is no register, no memory and no mode to act on (spec/10_state.md R14 to
R18, spec/20_memory.md R23, spec/60_exceptions.md R92). -/

namespace Sys2Proof.Machine

/-- The outcome of a step of this machine. -/
abbrev Outcome := Host.Outcome State Fault Refusal

/-- The transaction is complete: its response is returned to the host, after every earlier one (R98, R100). Nothing
else changes, since the block has no state (R14). -/
def State.record (s : State) (q : Request) (a : Response) : State :=
  { s with trace := s.trace ++ [{ request := q, response := a }] }

/-- `respond(OK)`: the response of an operation that completes, its result ports valid (R11, R44, R45). -/
def okResponse (r : Result) : Response := { status := .ok, result := some r }

/-- The `errField` of a refused bank count (R46, R80). -/
def countErrField : CountField → ErrField
  | .prgBanks => .prgBanks
  | .chrBanks => .chrBanks

/-- The response of a raised exception: its status and error information, and no result port (R46, R80, R85). -/
def errorResponse : Exn → Response
  | .formatError received =>
    { status := .formatError, errField := some .signature, errValue := some 0, errBytes := some received }
  | .rangeError field count =>
    { status := .rangeError, errField := some (countErrField field), errValue := some count }
  | .badArg bankSize => { status := .badArg, errField := some .bankSize, errValue := some bankSize }
  | .illegalOp op => { status := .illegalOp, errField := some .op, errValue := some op.toNat }

/-- `respond(OK)` for the request `q`: a next state (R11). -/
def respond (q : Request) (r : Result) (s : State) : Outcome := .next (s.record q (okResponse r))

/-- TAKING AN EXCEPTION (R85): the transaction completes at once with the exception's status and error information;
nothing is saved, no mode changes, control goes nowhere; the block is as ready afterwards as before, so there is no
return from an exception beside it (R88). -/
def raise (q : Request) (e : Exn) (s : State) : Outcome := .next (s.record q (errorResponse e))

/-- The pseudocode of an operation ends in a `respond` or in a `raise` (R11, R99). -/
def complete (q : Request) (answer : Except Exn Result) (s : State) : Outcome :=
  match answer with
  | .ok r => respond q r s
  | .error e => raise q e s

/-- The host makes its next request: its ports are sampled once and the request is no longer to be made (R97, R98). -/
def takeRequest (s : State) : Option (Ports × State) :=
  match s.pending with
  | [] => none
  | p :: rest => some (p, { s with pending := rest })

/-- With no request the block does nothing: it has no event of its own and every response answers a request (R89,
R96). DEDUCED (assumption log 6): the step leaves everything as it is. -/
def idle (s : State) : Outcome := .next s

end Sys2Proof.Machine
end

