-- ==== Sys2Proof/Machine/BankSizer.lean ====
section
/-! DEFINITION. The Bank Sizer: B2BK, PADL, ISP2, BK2B and RLAY (spec/41_bank_sizer.md R61 to R79). -/

namespace Sys2Proof.Machine

/-- The check of B2BK and PADL: a zero bank size is refused, whatever the length (R65, R83,
assumption log 11). -/
def withBankSize (bankSize : Nat) (r : Result) : Except Exn Result :=
  if bankSize = 0 then .error (.badArg bankSize) else .ok r

/-- B2BK (R66). -/
def execB2bk (byteLength bankSize : Nat) (s : State) : Outcome :=
  complete (.op (.b2bk byteLength bankSize)) (withBankSize bankSize (.banks (ceilDiv byteLength bankSize))) s

/-- PADL (R67). -/
def execPadl (byteLength bankSize : Nat) (s : State) : Outcome :=
  complete (.op (.padl byteLength bankSize)) (withBankSize bankSize (.paddedLength (paddedTo byteLength bankSize))) s

/-- ISP2 (R68). -/
def execIsp2 (n : Nat) (s : State) : Outcome := respond (.op (.isp2 n)) (.isPow2 (isPowerOfTwo n)) s

/-- BK2B (R69). -/
def execBk2b (bankCount bankSize : Nat) (s : State) : Outcome :=
  respond (.op (.bk2b bankCount bankSize)) (.bytes (banksToBytes bankCount bankSize)) s

/-- RLAY (R70). -/
def execRlay (hasTrainer : Bool) (prgBanks chrBanks : Byte) (s : State) : Outcome :=
  respond (.op (.rlay hasTrainer prgBanks chrBanks)) (.layout (regionLayout hasTrainer prgBanks chrBanks)) s

end Sys2Proof.Machine
end

