-- ==== Sys2Proof/Machine/HeaderCodec.lean ====
section
/-! DEFINITION. The Header Codec: HENC and HDEC (spec/40_header_codec.md R55 to R60). -/

namespace Sys2Proof.Machine

/-- What HENC answers: `prgBanks` is checked before `chrBanks`, and the first count above 255 ends the operation
(R55, R87). Which count is named when both are out of range is the spec's own choice D10 (assumption log 12). -/
def hencAnswer (prgBanks chrBanks : Nat) (mirroringVertical hasBattery hasTrainer fourScreenVram : Bool)
    (mapperNumber : Byte) : Except Exn Result :=
  if prgBanks > maxBankCount then .error (.rangeError .prgBanks prgBanks)
  else if chrBanks > maxBankCount then .error (.rangeError .chrBanks chrBanks)
  else .ok (.header (packHeader prgBanks chrBanks mirroringVertical hasBattery hasTrainer fourScreenVram mapperNumber))

/-- HENC (R55). -/
def execHenc (prgBanks chrBanks : Nat) (mirroringVertical hasBattery hasTrainer fourScreenVram : Bool)
    (mapperNumber : Byte) (s : State) : Outcome :=
  complete
    (.op (.henc prgBanks chrBanks mirroringVertical hasBattery hasTrainer fourScreenVram mapperNumber))
    (hencAnswer prgBanks chrBanks mirroringVertical hasBattery hasTrainer fourScreenVram mapperNumber) s

/-- What HDEC answers: the four signature bytes as one comparison, then every field (R56, R87). -/
def hdecAnswer (hdr : Header) : Except Exn Result :=
  if signatureBytes hdr = signature then .ok (.fields (unpackHeader hdr))
  else .error (.formatError (signatureBytes hdr))

/-- HDEC (R56). -/
def execHdec (hdr : Header) (s : State) : Outcome := complete (.op (.hdec hdr)) (hdecAnswer hdr) s

end Sys2Proof.Machine
end

