-- ==== Sys2Proof/Machine/Dispatch.lean ====
section
/-! DEFINITION. One arm per operation of the table (spec/30_encoding.md R42). -/

namespace Sys2Proof.Machine

def exec (i : Instr) (s : State) : Host.Outcome State Fault Refusal :=
  match i with
  | .henc prg chr v b t f m => Sys2Proof.Machine.execHenc prg chr v b t f m s
  | .hdec hdr => Sys2Proof.Machine.execHdec hdr s
  | .b2bk n b => Sys2Proof.Machine.execB2bk n b s
  | .padl n b => Sys2Proof.Machine.execPadl n b s
  | .isp2 n => Sys2Proof.Machine.execIsp2 n s
  | .bk2b k b => Sys2Proof.Machine.execBk2b k b s
  | .rlay t prg chr => Sys2Proof.Machine.execRlay t prg chr s

end Sys2Proof.Machine
end

