-- ==== Sys2Proof/Machine/Step.lean ====
section
/-! DEFINITION. One step is one transaction (spec/10_state.md R13, spec/70_reset_and_hazards.md R98, R99): the next
request is taken, its `op` code is checked first (spec/60_exceptions.md R84, R87), and the operation runs to its
response. -/

namespace Sys2Proof.Machine

/-- One step. A reserved `op` is answered with ILLEGAL_OP (R84). A request whose operands do not fit the ports cannot
be made, so the step refuses it by name (U13, assumption log 3). -/
def step (s : State) : Host.Outcome State Fault Refusal :=
  match takeRequest s with
  | none => idle s
  | some (p, s') =>
    match decode p with
    | .error (.reservedOp op) => raise (.reserved op) (.illegalOp op) s'
    | .ok i => if i.wf s.cfg.lenw then exec i s' else .refused .notPresentable

/-- The state in which the host's next request is the instruction of a table word: its ports are put before every
request still to be made (assumption log 9). -/
def State.withFetchWord (s : State) (nbits w : Nat) : State :=
  { s with pending := tableWordPorts nbits w :: s.pending }

end Sys2Proof.Machine
end

