-- ==== Sys2Proof/Safety.lean ====
section
/-! DEFINITION. What a good run of the block is, in the terms the statements use (spec/20_memory.md R35,
spec/30_encoding.md R40, R43, R46, spec/41_bank_sizer.md R77, spec/70_reset_and_hazards.md R94, R98). -/

namespace Sys2Proof.Machine

/-- The state after the operation `i` has been answered with `a`: one transaction more, everything else as it was. -/
def answered (s : State) (i : Instr) (a : Response) : State :=
  { cfg := s.cfg, pending := s.pending, trace := s.trace ++ [{ request := .op i, response := a }] }

/-- A response with status OK and the result ports `r`; no error port carries a value (R40, R44). -/
def valid (r : Result) : Response :=
  { status := .ok, result := some r, errField := none, errValue := none, errBytes := none }

/-- The first four bytes are `4E 45 53 1A` (R25, R56). -/
def hasSignature (hdr : Header) : Prop := hdr[0] = 0x4E ∧ hdr[1] = 0x45 ∧ hdr[2] = 0x53 ∧ hdr[3] = 0x1A

/-- The result ports are those of the operation's response format (R44). -/
def Result.isOf : Mnemonic → Result → Bool
  | .henc, .header _ => true
  | .hdec, .fields _ => true
  | .b2bk, .banks _ => true
  | .padl, .paddedLength _ => true
  | .isp2, .isPow2 _ => true
  | .bk2b, .bytes _ => true
  | .rlay, .layout _ => true
  | _, _ => false

/-- Every number of a result fits its `RESW`-bit port (R44, R77); the other result ports are exact by their types. -/
def Result.fits (resw : Nat) : Result → Bool
  | .header _ => true
  | .fields _ => true
  | .banks n => fitsPort resw n
  | .paddedLength n => fitsPort resw n
  | .isPow2 _ => true
  | .bytes n => fitsPort resw n
  | .layout l =>
    fitsPort resw l.trainerLen && fitsPort resw l.prgOffset && fitsPort resw l.prgLen && fitsPort resw l.chrOffset
      && fitsPort resw l.chrLen && fitsPort resw l.totalLen

/-- Every number of a response fits its port: results `RESW` bits, `errValue` `LENW` bits (R44, R46). -/
def Response.fits (c : Config) (a : Response) : Bool :=
  a.result.all (Result.fits c.resw) && a.errValue.all (fitsPort c.lenw)

/-- The request's operands fit its ports (R43). -/
def Request.fits (c : Config) : Request → Bool
  | .op i => i.wf c.lenw
  | .reserved _ => true

/-- The transaction a block of this configuration makes of the ports `p` as its very first request after reset;
`none` where the request cannot be made (R94). -/
def firstAnswer (c : Config) (p : Ports) : Option Transaction :=
  match step { State.reset with cfg := c, pending := [p] } with
  | .next t => t.trace.head?
  | .fault _ => none
  | .refused _ => none

/-- The transaction is one that the block would have made as its very first after reset: its response is a function
of its request alone, "not of earlier requests, not of time, not of reset history" (R35). -/
def Transaction.stateless (c : Config) (tr : Transaction) : Prop := ∃ p : Ports, firstAnswer c p = some tr

/-- A GOOD RUN: `LENW` is admissible (R8), and every transaction so far fits the ports (R43, R77) and is stateless
(R35). -/
structure GoodRun (s : State) : Prop where
  widthAdmissible : s.cfg.wf = true
  requestsFit : ∀ tr ∈ s.trace, tr.request.fits s.cfg = true
  responsesFit : ∀ tr ∈ s.trace, tr.response.fits s.cfg = true
  stateless : ∀ tr ∈ s.trace, tr.stateless s.cfg

end Sys2Proof.Machine
end

