-- ==== Sys2Proof/Certificates/Slice0/Obligations.lean ====
section
/-! DEFINITION. The statements about the block, for the provers. Every response is stated as
`exec i s = .next (answered s i a)`: the operation completes in a next state, its answer `a` is the one transaction
added, and nothing else changes. Where a clause rests on a choice of the spec (a decision D<n>) or of the model (an
assumption log), the docstring says so. -/

open Sys2Proof Sys2Proof.Machine

/-! ### Requests, decoding and the step -/

/-- R22, R94, R96: after reset there is no response and nothing to initialise. The width 32 and the empty list of
requests to come are the model's choice (assumption logs 1 and 4; the spec's default of D5). -/
def Obligations.ResetHasNoResponse : Prop :=
  State.reset.trace = [] ∧ State.reset.pending = [] ∧ State.reset.cfg.lenw = 32

/-- R42, R53: seven requests, one for each operation, written out as port words from the spec's tables (the codes are
the spec's decision D4), read as the instruction they stand for, and the codes just outside the table do not. Reading a
tuple back is the model's choice (assumption log 14); what `step` decodes is stated in `DecodeReadsNamedFormatPorts`. -/
def Obligations.WrittenWordsDecode : Prop :=
  decodeWords 32 [⟨4, 0x1⟩, ⟨32, 0x02⟩, ⟨32, 0x01⟩, ⟨1, 0⟩, ⟨1, 0⟩, ⟨1, 1⟩, ⟨1, 0⟩, ⟨8, 0x21⟩] =
    .ok (.henc 2 1 false false true false 0x21) ∧
  decodeWords 32 [⟨4, 0x2⟩, ⟨8, 0x4E⟩, ⟨8, 0x45⟩, ⟨8, 0x53⟩, ⟨8, 0x1A⟩, ⟨8, 2⟩, ⟨8, 1⟩, ⟨8, 0x14⟩, ⟨8, 0x20⟩, ⟨8, 0⟩,
      ⟨8, 0⟩, ⟨8, 0⟩, ⟨8, 0⟩, ⟨8, 0⟩, ⟨8, 0⟩, ⟨8, 0⟩, ⟨8, 9⟩] =
    .ok (.hdec #v[0x4E, 0x45, 0x53, 0x1A, 2, 1, 0x14, 0x20, 0, 0, 0, 0, 0, 0, 0, 9]) ∧
  decodeWords 32 [⟨4, 0x3⟩, ⟨32, 0x2EE0⟩, ⟨32, 0x4000⟩] = .ok (.b2bk 12000 16384) ∧
  decodeWords 32 [⟨4, 0x4⟩, ⟨32, 0x2EE0⟩, ⟨32, 0x4000⟩] = .ok (.padl 12000 16384) ∧
  decodeWords 32 [⟨4, 0x5⟩, ⟨32, 0x6000⟩] = .ok (.isp2 24576) ∧
  decodeWords 32 [⟨4, 0x6⟩, ⟨32, 0x2⟩, ⟨32, 0x4000⟩] = .ok (.bk2b 2 16384) ∧
  decodeWords 32 [⟨4, 0x7⟩, ⟨1, 1⟩, ⟨8, 2⟩, ⟨8, 1⟩] = .ok (.rlay true 2 1) ∧
  decodeWords 32 [⟨4, 0x0⟩] = .error (.reservedOp 0x0) ∧
  decodeWords 32 [⟨4, 0x8⟩] = .error (.reservedOp 0x8)

/-- Reading the tuple of port words of a request that fits its ports gives the request back, and a tuple that reads as
a request is the tuple of that request, which fits its ports. The port widths and their order are R43's, and R53 fixes
the tuple for `LENW = 32`; that it is written for every width, that it can be read back, and what reading refuses (so
that no second tuple reads as the same request) are the model's choice (assumption log 14, DESIGN CHOICE). -/
def Obligations.PortWordsRoundTrip : Prop :=
  (∀ (lenw : Nat) (i : Instr), i.wf lenw = true → decodeWords lenw (encodeWords lenw i) = .ok i) ∧
  (∀ (lenw : Nat) (ws : List PortWord) (i : Instr),
    decodeWords lenw ws = .ok i → i.wf lenw = true ∧ encodeWords lenw i = ws)

/-- R43: a request fits its ports exactly when every value of its written tuple is below two to the width of its port,
the `op` code on four bits and each operand on the port its format gives it. The tuple at every width is the model's
choice (assumption log 14). -/
def Obligations.WellFormedIffEveryValueFitsItsPort : Prop :=
  ∀ (lenw : Nat) (i : Instr), i.wf lenw = true ↔ ∀ w ∈ encodeWords lenw i, w.value < 2 ^ w.width

/-- R42, R43, R47, R49: what the decoder of the step gives for every value of the ports: each code 0x1 to 0x7 selects
its own operation with the operands of its own format's ports, in the order of R43, and 0x0 and 0x8 to 0xF are rejected;
and the ports the encoder drives decode to the instruction they encode. The codes are the spec's decision D4 (assumption
log 12); a group of ports for each format and the encoder's zeros on the others are the model's choice (assumption logs
7 and 8). -/
def Obligations.DecodeReadsNamedFormatPorts : Prop :=
  (∀ p : Ports,
    (p.op = 0x1 → decode p = .ok (.henc p.e.prgBanks p.e.chrBanks p.e.mirroringVertical p.e.hasBattery p.e.hasTrainer
      p.e.fourScreenVram p.e.mapperNumber)) ∧
    (p.op = 0x2 → decode p = .ok (.hdec p.d.hdr)) ∧
    (p.op = 0x3 → decode p = .ok (.b2bk p.s2.byteLength p.s2.bankSize)) ∧
    (p.op = 0x4 → decode p = .ok (.padl p.s2.byteLength p.s2.bankSize)) ∧
    (p.op = 0x5 → decode p = .ok (.isp2 p.s1.n)) ∧
    (p.op = 0x6 → decode p = .ok (.bk2b p.m.bankCount p.m.bankSize)) ∧
    (p.op = 0x7 → decode p = .ok (.rlay p.l.hasTrainer p.l.prgBanks p.l.chrBanks)) ∧
    (p.op = 0x0 ∨ 0x8 ≤ p.op → decode p = .error (.reservedOp p.op))) ∧
  (∀ i : Instr, decode (encode i) = .ok i)

/-- R40, R98: when the next request's ports decode to an instruction that fits them, the step is that instruction,
executed with the request taken from the host's list and nothing else changed. -/
def Obligations.StepRunsDecodedRequest : Prop :=
  ∀ (s : State) (p : Ports) (rest : List Ports) (i : Instr),
    s.pending = p :: rest → decode p = .ok i → i.wf s.cfg.lenw = true →
      step s = exec i { cfg := s.cfg, pending := rest, trace := s.trace }

/-- R89, R96: with no request to make, nothing happens. The idle step is the model's inference (assumption log 6). -/
def Obligations.StepWithoutRequestChangesNothing : Prop :=
  ∀ s : State, s.pending = [] → step s = .next s

/-- A request that cannot be presented on the ports is refused by name. The refusal is the model's form of the
treatment "refuse" (assumption log 3; U13, U14). -/
def Obligations.StepRefusesUnpresentable : Prop :=
  ∀ (s : State) (p : Ports) (rest : List Ports) (i : Instr),
    s.pending = p :: rest → decode p = .ok i → i.wf s.cfg.lenw = false → step s = .refused .notPresentable

/-- R49, R84 (the spec's decisions D4, D9 and D12, assumption log 12): a reserved code 0x0 or 0x8 to 0xF answers ILLEGAL_OP with `errField = OP` and
`errValue` the code, whatever the operand ports hold, and has no other effect. -/
def Obligations.ReservedOpAnswersIllegalOp : Prop :=
  ∀ (s : State) (p : Ports) (rest : List Ports),
    s.pending = p :: rest → p.op = 0x0 ∨ 0x8 ≤ p.op →
      step s = .next { cfg := s.cfg, pending := rest,
                       trace := s.trace ++ [{ request := .reserved p.op,
                                              response := { status := .illegalOp, result := none,
                                                            errField := some .op, errValue := some p.op.toNat,
                                                            errBytes := none } }] }

/-- R35: the response is a function of the request's `op` and of the operand ports of its own format, and of nothing
else: two states of one block whose next requests agree there make the same transaction, whatever the other ports,
the earlier transactions and the requests to come are. Which code selects which format is the spec's decision D4
(assumption log 12). -/
def Obligations.ResponseDependsOnOwnRequestOnly : Prop :=
  ∀ (s s' : State) (p p' : Ports) (rest rest' : List Ports) (t : State),
    s.cfg = s'.cfg → s.pending = p :: rest → s'.pending = p' :: rest' → p.op = p'.op →
    (p.op = 0x1 → p.e = p'.e) → (p.op = 0x2 → p.d = p'.d) → (p.op = 0x3 ∨ p.op = 0x4 → p.s2 = p'.s2) →
    (p.op = 0x5 → p.s1 = p'.s1) → (p.op = 0x6 → p.m = p'.m) → (p.op = 0x7 → p.l = p'.l) →
    step s = .next t →
      ∃ tr : Transaction,
        t = { cfg := s.cfg, pending := rest, trace := s.trace ++ [tr] } ∧
        step s' = .next { cfg := s'.cfg, pending := rest', trace := s'.trace ++ [tr] }

/-- The frame of all seven operations, and that each completes on all operands (R14, R16, R61, R99): the operation
always answers; the configuration, the requests to come and every earlier transaction are unchanged. -/
def Obligations.EveryOperationAnswersAndChangesNothingElse : Prop :=
  ∀ (i : Instr) (s : State), ∃ a : Response,
    exec i s = .next { cfg := s.cfg, pending := s.pending,
                       trace := s.trace ++ [{ request := .op i, response := a }] }

/-- R44, R46, R47, R85 (the spec's decisions D9, D13): a response carries either the result ports of its own
operation's format or error information, never both and never neither; `errBytes` comes with FORMAT_ERROR only. -/
def Obligations.ResponseIsResultOrError : Prop :=
  ∀ (i : Instr) (s : State), ∃ a : Response,
    exec i s = .next (answered s i a) ∧
    (a.status = .ok → (∃ r, a.result = some r ∧ r.isOf i.mnemonic = true) ∧
      a.errField = none ∧ a.errValue = none ∧ a.errBytes = none) ∧
    (a.status ≠ .ok → a.result = none ∧ (∃ e, a.errField = some e) ∧ (∃ v, a.errValue = some v) ∧
      ((∃ bs, a.errBytes = some bs) ↔ a.status = .formatError))

/-- R80 (the spec's decisions D4, D9, D11, D12, assumption logs 11 and 12): BAD_ARG and ILLEGAL_OP come from their own causes and from nothing else,
and a request is answered OK exactly when none of the four causes of R80 holds: no other exception exists. -/
def Obligations.ExceptionCausesAreComplete : Prop :=
  ∀ (s : State) (p : Ports) (rest : List Ports),
    s.pending = p :: rest → p.presentable s.cfg.lenw = true →
      ∃ tr : Transaction,
        step s = .next { cfg := s.cfg, pending := rest, trace := s.trace ++ [tr] } ∧
        (tr.response.status = .badArg ↔ (p.op = 0x3 ∨ p.op = 0x4) ∧ p.s2.bankSize = 0) ∧
        (tr.response.status = .illegalOp ↔ p.op = 0x0 ∨ 0x8 ≤ p.op) ∧
        (tr.response.status = .ok ↔
          ¬ (p.op = 0x2 ∧ ¬ hasSignature p.d.hdr) ∧ ¬ (p.op = 0x1 ∧ (255 < p.e.prgBanks ∨ 255 < p.e.chrBanks)) ∧
          ¬ ((p.op = 0x3 ∨ p.op = 0x4) ∧ p.s2.bankSize = 0) ∧ ¬ (p.op = 0x0 ∨ 0x8 ≤ p.op))

/-- R45, R46 (the spec's decision D9): the numbers of the status and error-field codes. -/
def Obligations.StatusAndFieldCodes : Prop :=
  statusCode .ok = 0 ∧ statusCode .formatError = 1 ∧ statusCode .rangeError = 2 ∧ statusCode .badArg = 3 ∧
  statusCode .illegalOp = 4 ∧ errFieldCode .signature = 1 ∧ errFieldCode .prgBanks = 2 ∧
  errFieldCode .chrBanks = 3 ∧ errFieldCode .bankSize = 4 ∧ errFieldCode .op = 5

/-! ### The header codec -/

/-- R55: HENC writes the sixteen header bytes, or refuses a count above 255 and returns no byte. That the program count
is named when both counts are out of range is the spec's decision D10. The error ports of the refusals are R46's, the
spec's decision D9 (assumption log 10), and the absent result R85's (D9, D13; assumption logs 10 and 12). -/
def Obligations.HencPacksOrRefuses : Prop :=
  ∀ (prg chr : Nat) (v b t f : Bool) (m : Byte) (s : State),
    exec (.henc prg chr v b t f m) s = .next (answered s (.henc prg chr v b t f m)
      (if 255 < prg then
        { status := .rangeError, result := none, errField := some .prgBanks, errValue := some prg, errBytes := none }
      else if 255 < chr then
        { status := .rangeError, result := none, errField := some .chrBanks, errValue := some chr, errBytes := none }
      else valid (.header #v[0x4E, 0x45, 0x53, 0x1A, BitVec.ofNat 8 prg, BitVec.ofNat 8 chr,
        m.extractLsb' 0 4 ++ BitVec.ofBool f ++ BitVec.ofBool t ++ BitVec.ofBool b ++ BitVec.ofBool v,
        m.extractLsb' 4 4 ++ 0#4, 0, 0, 0, 0, 0, 0, 0, 0])))

/-- RANGE_ERROR is raised by HENC and by nothing else, exactly when a count operand is above 255 (R82); it returns no
result and names a count that is above 255 with its value (R46, R80, R85). The absent result and the error ports rest on
the spec's decisions D9 and D13 (assumption logs 10 and 12), and that `op` 0x1 is HENC on D4 (assumption log 12). Which
count is named when both are above 255 is left open here (D10). -/
def Obligations.RangeErrorOnlyFromHenc : Prop :=
  ∀ (s : State) (p : Ports) (rest : List Ports),
    s.pending = p :: rest → p.presentable s.cfg.lenw = true →
      ∃ tr : Transaction,
        step s = .next { cfg := s.cfg, pending := rest, trace := s.trace ++ [tr] } ∧
        (tr.response.status = .rangeError ↔ p.op = 0x1 ∧ (255 < p.e.prgBanks ∨ 255 < p.e.chrBanks)) ∧
        (tr.response.status = .rangeError → tr.response.result = none ∧
          ((tr.response.errField = some .prgBanks ∧ tr.response.errValue = some p.e.prgBanks ∧ 255 < p.e.prgBanks) ∨
           (tr.response.errField = some .chrBanks ∧ tr.response.errValue = some p.e.chrBanks ∧ 255 < p.e.chrBanks)))

/-- R56 (that byte 7 bits 3:0 are ignored and `reserved` is returned is the spec's decision D14): HDEC returns every
field of a header with the signature, and FORMAT_ERROR with the four bytes received for any other. The error ports of the
refusal, `errValue` 0 among them, are R46's, the spec's decision D9 (assumption log 10), and that no field is returned is
R85's (D9, D13; assumption logs 10 and 12). -/
def Obligations.HdecUnpacksOrRefuses : Prop :=
  ∀ (hdr : Header) (s : State),
    (hasSignature hdr →
      exec (.hdec hdr) s = .next (answered s (.hdec hdr) (valid (.fields
        { magic := #v[0x4E, 0x45, 0x53, 0x1A], prgBanks := hdr[4], chrBanks := hdr[5],
          mirroringVertical := hdr[6].getLsbD 0, hasBattery := hdr[6].getLsbD 1, hasTrainer := hdr[6].getLsbD 2,
          fourScreenVram := hdr[6].getLsbD 3, mapperLowNibble := hdr[6].extractLsb' 4 4,
          mapperHighNibble := hdr[7].extractLsb' 4 4,
          mapperNumber := hdr[7].extractLsb' 4 4 ++ hdr[6].extractLsb' 4 4,
          reserved := #v[hdr[8], hdr[9], hdr[10], hdr[11], hdr[12], hdr[13], hdr[14], hdr[15]] })))) ∧
    (¬ hasSignature hdr →
      exec (.hdec hdr) s = .next (answered s (.hdec hdr)
        { status := .formatError, result := none, errField := some .signature, errValue := some 0,
          errBytes := some #v[hdr[0], hdr[1], hdr[2], hdr[3]] }))

/-- FORMAT_ERROR is raised by HDEC and by nothing else, exactly when the signature comparison fails (R81); it returns
no field and carries the four bytes received (R46, R80, R85). The absent fields and the error ports rest on the spec's
decisions D9 and D13 (assumption logs 10 and 12), and that `op` 0x2 is HDEC on D4 (assumption log 12). -/
def Obligations.FormatErrorOnlyFromHdec : Prop :=
  ∀ (s : State) (p : Ports) (rest : List Ports),
    s.pending = p :: rest → p.presentable s.cfg.lenw = true →
      ∃ tr : Transaction,
        step s = .next { cfg := s.cfg, pending := rest, trace := s.trace ++ [tr] } ∧
        (tr.response.status = .formatError ↔ p.op = 0x2 ∧ ¬ hasSignature p.d.hdr) ∧
        (tr.response.status = .formatError → tr.response.result = none ∧
          tr.response.errField = some .signature ∧
          tr.response.errBytes = some #v[p.d.hdr[0], p.d.hdr[1], p.d.hdr[2], p.d.hdr[3]])

/-- R26: the bits of `hdr[6]`, as HENC writes them (with the weights of the encoder's formula) and as HDEC reads them,
with the two example bytes 0x11 and 0x14. -/
def Obligations.ControlByteOneLayout : Prop :=
  (∀ (prg chr : Nat) (v b t f : Bool) (m : Byte) (s : State), prg ≤ 255 → chr ≤ 255 →
    ∃ hdr : Header,
      exec (.henc prg chr v b t f m) s = .next (answered s (.henc prg chr v b t f m) (valid (.header hdr))) ∧
      hdr[6].extractLsb' 4 4 = m.extractLsb' 0 4 ∧ hdr[6].getLsbD 3 = f ∧ hdr[6].getLsbD 2 = t ∧
      hdr[6].getLsbD 1 = b ∧ hdr[6].getLsbD 0 = v ∧
      hdr[6].toNat = m.toNat % 16 * 16 + f.toNat * 8 + t.toNat * 4 + b.toNat * 2 + v.toNat) ∧
  (∀ (hdr : Header) (s : State), hasSignature hdr →
    ∃ fl : HeaderFields,
      exec (.hdec hdr) s = .next (answered s (.hdec hdr) (valid (.fields fl))) ∧
      fl.mapperLowNibble = hdr[6].extractLsb' 4 4 ∧ fl.fourScreenVram = hdr[6].getLsbD 3 ∧
      fl.hasTrainer = hdr[6].getLsbD 2 ∧ fl.hasBattery = hdr[6].getLsbD 1 ∧
      fl.mirroringVertical = hdr[6].getLsbD 0 ∧
      (hdr[6] = 0x11 → fl.mapperLowNibble = 1 ∧ fl.mirroringVertical = true ∧ fl.hasTrainer = false) ∧
      (hdr[6] = 0x14 → fl.mapperLowNibble = 1 ∧ fl.hasTrainer = true))

/-- R27, R28 (the spec's decision D14): HDEC's response is the same for all sixteen values of byte 7 bits 3:0. -/
def Obligations.HdecIgnoresByteSevenLowNibble : Prop :=
  ∀ (hdr hdr' : Header) (s : State),
    (∀ k : Fin 16, k ≠ 7 → hdr[k] = hdr'[k]) → hdr[7].extractLsb' 4 4 = hdr'[7].extractLsb' 4 4 →
      ∃ a : Response,
        exec (.hdec hdr) s = .next (answered s (.hdec hdr) a) ∧
        exec (.hdec hdr') s = .next (answered s (.hdec hdr') a)

/-- R57, R58: for every HENC request whose counts are at most 255, HENC responds OK, and HDEC of the returned header
responds OK with the same operands, the signature, the two nibbles of the mapper number and zero reserved bytes. -/
def Obligations.DecodeOfEncodeIsIdentity : Prop :=
  ∀ (prg chr : Nat) (v b t f : Bool) (m : Byte) (s s' : State), prg ≤ 255 → chr ≤ 255 →
    ∃ (hdr : Header) (fl : HeaderFields),
      exec (.henc prg chr v b t f m) s = .next (answered s (.henc prg chr v b t f m) (valid (.header hdr))) ∧
      exec (.hdec hdr) s' = .next (answered s' (.hdec hdr) (valid (.fields fl))) ∧
      fl.prgBanks.toNat = prg ∧ fl.chrBanks.toNat = chr ∧ fl.mirroringVertical = v ∧ fl.hasBattery = b ∧
      fl.hasTrainer = t ∧ fl.fourScreenVram = f ∧ fl.mapperNumber = m ∧
      fl.magic = #v[0x4E, 0x45, 0x53, 0x1A] ∧ fl.mapperLowNibble = m.extractLsb' 0 4 ∧
      fl.mapperHighNibble = m.extractLsb' 4 4 ∧ fl.reserved = Vector.replicate 8 0

/-- R59, first sentence (an inference of the spec): HENC of the fields HDEC returns gives the header back exactly when
byte 7 bits 3:0 and bytes 8 to 15 were all zero. -/
def Obligations.EncodeOfDecodeOnlyOnStrictHeaders : Prop :=
  ∀ (hdr : Header) (s s' : State), hasSignature hdr →
    ∃ (fl : HeaderFields) (hdr' : Header) (i : Instr),
      exec (.hdec hdr) s = .next (answered s (.hdec hdr) (valid (.fields fl))) ∧
      i = .henc fl.prgBanks.toNat fl.chrBanks.toNat fl.mirroringVertical fl.hasBattery fl.hasTrainer
        fl.fourScreenVram fl.mapperNumber ∧
      exec i s' = .next (answered s' i (valid (.header hdr'))) ∧
      (hdr' = hdr ↔ hdr[7].extractLsb' 0 4 = 0#4 ∧ ∀ k : Fin 16, 8 ≤ k.val → hdr[k] = 0)

/-- R59 (an inference of the spec): the headers HENC can return are exactly those with the signature, byte 7 bits 3:0
zero and bytes 8 to 15 zero. -/
def Obligations.HencImageIsStrictHeaders : Prop :=
  ∀ (hdr : Header) (s : State),
    (∃ prg chr v b t f m,
      exec (.henc prg chr v b t f m) s = .next (answered s (.henc prg chr v b t f m) (valid (.header hdr)))) ↔
    (hasSignature hdr ∧ hdr[7].extractLsb' 0 4 = 0#4 ∧ ∀ k : Fin 16, 8 ≤ k.val → hdr[k] = 0)

/-- R59 (an inference of the spec): there are `2^28` headers that HENC can return. -/
def Obligations.HencImageHasTwoPow28Members : Prop :=
  ∀ s : State,
    { hdr : Header | ∃ prg chr v b t f m,
      exec (.henc prg chr v b t f m) s = .next (answered s (.henc prg chr v b t f m) (valid (.header hdr))) }.ncard
    = 2 ^ 28

/-- R24 (the spec's decision D8): byte `i` of a header is bits `8*i+7 : 8*i` of its 128-bit vector, and the vector
gives the header back. -/
def Obligations.HeaderFlattensBytewise : Prop :=
  (∀ (hdr : Header) (k : Fin 16), (flattenHeader hdr).extractLsb' (8 * k.val) 8 = hdr[k]) ∧
  (∀ hdr : Header, unflattenHeader (flattenHeader hdr) = hdr) ∧
  (∀ v : BitVec 128, flattenHeader (unflattenHeader v) = v)

/-! ### The bank sizer -/

/-- R65, R83 (the spec's decision D11): B2BK and PADL with `bankSize = 0` answer BAD_ARG for every length, and BK2B
with a zero size answers 0. The refusal rests on assumption log 11, its error ports on R46 (D9, assumption log 10). -/
def Obligations.ZeroBankSizeIsBadArg : Prop :=
  ∀ (n : Nat) (s : State),
    exec (.b2bk n 0) s = .next (answered s (.b2bk n 0)
      { status := .badArg, result := none, errField := some .bankSize, errValue := some 0, errBytes := none }) ∧
    exec (.padl n 0) s = .next (answered s (.padl n 0)
      { status := .badArg, result := none, errField := some .bankSize, errValue := some 0, errBytes := none }) ∧
    exec (.bk2b n 0) s = .next (answered s (.bk2b n 0) (valid (.bytes 0)))

/-- R66: B2BK returns the quotient rounded up, the least number of banks that hold the bytes, equal to
`floor((byteLength + bankSize - 1) / bankSize)`; a zero bank size is BAD_ARG (R65, the
spec's decision D11, assumption log 11) with the error ports of R46 (D9, assumption log 10). -/
def Obligations.B2bkIsCeilingDivision : Prop :=
  ∀ (n b : Nat) (s : State),
    (b = 0 → exec (.b2bk n b) s = .next (answered s (.b2bk n b)
      { status := .badArg, result := none, errField := some .bankSize, errValue := some 0, errBytes := none })) ∧
    (0 < b → ∃ k : Nat,
      exec (.b2bk n b) s = .next (answered s (.b2bk n b) (valid (.banks k))) ∧
      n ≤ k * b ∧ (∀ k', n ≤ k' * b → k ≤ k') ∧ k = (n + b - 1) / b)

/-- R67: PADL returns the smallest multiple of `bankSize` that is at least `byteLength`; a zero bank size is
BAD_ARG (R65, the spec's decision D11, assumption log 11) with the error ports of R46 (D9, assumption log 10). -/
def Obligations.PadlIsLeastMultiple : Prop :=
  ∀ (n b : Nat) (s : State),
    (b = 0 → exec (.padl n b) s = .next (answered s (.padl n b)
      { status := .badArg, result := none, errField := some .bankSize, errValue := some 0, errBytes := none })) ∧
    (0 < b → ∃ p : Nat,
      exec (.padl n b) s = .next (answered s (.padl n b) (valid (.paddedLength p))) ∧
      b ∣ p ∧ n ≤ p ∧ (∀ p', b ∣ p' → n ≤ p' → p ≤ p'))

/-- R78: the identity is the whole definition of ISP2, and without its first conjunct the value 0 would pass. -/
def Obligations.Isp2IsTheIdentity : Prop :=
  (∀ (n : Nat) (s : State),
    exec (.isp2 n) s = .next (answered s (.isp2 n) (valid (.isPow2 (decide (n > 0 ∧ n &&& (n - 1) = 0)))))) ∧
  (∀ w : Nat, (0#w &&& (0#w - 1#w)) = 0#w) ∧
  (∀ s : State, exec (.isp2 0) s = .next (answered s (.isp2 0) (valid (.isPow2 false))))

/-- R68 (an inference of the spec): `isPow2 = 1` exactly when `n = 2^k` for some `0 <= k < LENW`. -/
def Obligations.Isp2RecognisesPowersOfTwo : Prop :=
  ∀ (n : Nat) (s : State), (Instr.isp2 n).wf s.cfg.lenw = true →
    ∃ r : Bool,
      exec (.isp2 n) s = .next (answered s (.isp2 n) (valid (.isPow2 r))) ∧
      (r = true ↔ ∃ k, k < s.cfg.lenw ∧ n = 2 ^ k)

/-- R69: BK2B returns the full product, which fits the `2*LENW`-bit port with no truncation, and is commutative. The
spec's decision D16 is only that the product is an operation of its own. -/
def Obligations.Bk2bIsFullProduct : Prop :=
  ∀ (k b : Nat) (s : State),
    exec (.bk2b k b) s = .next (answered s (.bk2b k b) (valid (.bytes (k * b)))) ∧
    ((Instr.bk2b k b).wf s.cfg.lenw = true → k * b < 2 ^ (2 * s.cfg.lenw)) ∧
    exec (.bk2b b k) s = .next (answered s (.bk2b b k) (valid (.bytes (k * b))))

/-- R70: the six numbers of RLAY. The spec's decision D15 is only that they are one operation. -/
def Obligations.RlayIsTheRegionTable : Prop :=
  ∀ (t : Bool) (prg chr : Byte) (s : State),
    exec (.rlay t prg chr) s = .next (answered s (.rlay t prg chr) (valid (.layout
      { trainerLen := if t then 512 else 0
        prgOffset := 16 + (if t then 512 else 0)
        prgLen := prg.toNat * 16384
        chrOffset := 16 + (if t then 512 else 0) + prg.toNat * 16384
        chrLen := chr.toNat * 8192
        totalLen := 16 + (if t then 512 else 0) + prg.toNat * 16384 + chr.toNat * 8192 })))

/-- R32, R33 (the two bounds are an inference of the spec): the regions follow one another with no gaps, `totalLen` is
the end of the last, it lies between 16 and 6267408 with both ends reached, and the trainer moves offsets by exactly
512 and changes no length. -/
def Obligations.RegionsAreContiguousAndBounded : Prop :=
  (∀ (t : Bool) (prg chr : Byte) (s : State), ∃ l : RegionLayout,
    exec (.rlay t prg chr) s = .next (answered s (.rlay t prg chr) (valid (.layout l))) ∧
    l.prgOffset = 16 + l.trainerLen ∧ l.chrOffset = l.prgOffset + l.prgLen ∧ l.totalLen = l.chrOffset + l.chrLen ∧
    l.totalLen = 16 + l.trainerLen + l.prgLen + l.chrLen ∧ 16 ≤ l.totalLen ∧ l.totalLen ≤ 6267408 ∧
    (l.totalLen = 6267408 ↔ t = true ∧ prg = 255 ∧ chr = 255) ∧
    (l.totalLen = 16 ↔ t = false ∧ prg = 0 ∧ chr = 0)) ∧
  (∀ (prg chr : Byte) (s : State), ∃ l l' : RegionLayout,
    exec (.rlay false prg chr) s = .next (answered s (.rlay false prg chr) (valid (.layout l))) ∧
    exec (.rlay true prg chr) s = .next (answered s (.rlay true prg chr) (valid (.layout l'))) ∧
    l'.prgOffset = l.prgOffset + 512 ∧ l'.chrOffset = l.chrOffset + 512 ∧ l'.totalLen = l.totalLen + 512 ∧
    l'.prgLen = l.prgLen ∧ l'.chrLen = l.chrLen)

/-- R71 (an inference of the spec): for `b > 0`, `PADL(n, b) = B2BK(n, b) * b = BK2B(B2BK(n, b), b)`, and dividing the
padded length by the bank size gives the bank count with no remainder. -/
def Obligations.PadlAgreesWithB2bk : Prop :=
  ∀ (n b : Nat) (s s' s'' : State), 0 < b →
    ∃ k p : Nat,
      exec (.b2bk n b) s = .next (answered s (.b2bk n b) (valid (.banks k))) ∧
      exec (.padl n b) s' = .next (answered s' (.padl n b) (valid (.paddedLength p))) ∧
      exec (.bk2b k b) s'' = .next (answered s'' (.bk2b k b) (valid (.bytes p))) ∧
      p = k * b ∧ p / b = k ∧ p % b = 0

/-- R72: padding a padded length leaves it as it is, wherever the padded length fits a `LENW`-bit operand port. -/
def Obligations.PaddingIsIdempotent : Prop :=
  ∀ (n b : Nat) (s s' : State), 0 < b → (Instr.padl n b).wf s.cfg.lenw = true →
    ∃ p : Nat,
      exec (.padl n b) s = .next (answered s (.padl n b) (valid (.paddedLength p))) ∧
      (p < 2 ^ s.cfg.lenw →
        (Instr.padl p b).wf s.cfg.lenw = true ∧
        exec (.padl p b) s' = .next (answered s' (.padl p b) (valid (.paddedLength p))))

/-- R73 (an inference of the spec): the bounds of PADL and B2BK for a positive bank size. -/
def Obligations.PaddingAndBankCountBounds : Prop :=
  ∀ (n b : Nat) (s s' : State), 0 < b →
    ∃ k p : Nat,
      exec (.b2bk n b) s = .next (answered s (.b2bk n b) (valid (.banks k))) ∧
      exec (.padl n b) s' = .next (answered s' (.padl n b) (valid (.paddedLength p))) ∧
      n ≤ p ∧ p < n + b ∧ (p = n ↔ b ∣ n) ∧ n ≤ k * b ∧ (0 < n → (k - 1) * b < n)

/-- R74 (an inference of the spec): BK2B inverts B2BK on multiples, and PADL leaves a product as it is. -/
def Obligations.Bk2bInvertsB2bkOnMultiples : Prop :=
  ∀ (k b : Nat) (s s' s'' : State), 0 < b →
    ∃ p : Nat,
      exec (.bk2b k b) s = .next (answered s (.bk2b k b) (valid (.bytes p))) ∧
      exec (.b2bk p b) s' = .next (answered s' (.b2bk p b) (valid (.banks k))) ∧
      exec (.padl p b) s'' = .next (answered s'' (.padl p b) (valid (.paddedLength p)))

/-- R75 (an inference of the spec): RLAY is built from two BK2B products and additions. -/
def Obligations.RlayIsBuiltFromBk2b : Prop :=
  ∀ (t : Bool) (prg chr : Byte) (s s' s'' : State), ∃ l : RegionLayout,
    exec (.rlay t prg chr) s = .next (answered s (.rlay t prg chr) (valid (.layout l))) ∧
    exec (.bk2b prg.toNat 16384) s' = .next (answered s' (.bk2b prg.toNat 16384) (valid (.bytes l.prgLen))) ∧
    exec (.bk2b chr.toNat 8192) s'' = .next (answered s'' (.bk2b chr.toNat 8192) (valid (.bytes l.chrLen))) ∧
    l.prgOffset = 16 + l.trainerLen ∧ l.chrOffset = l.prgOffset + l.prgLen ∧ l.totalLen = l.chrOffset + l.chrLen ∧
    (t = false → l.totalLen = 16 + prg.toNat * 16384 + chr.toNat * 8192)

/-- R76 (an inference of the spec): the counts B2BK derives are written to the header or refused, never truncated; the
least refused program length is 4177921 bytes and the least refused graphics length 2088961. The error ports of the
refusals are R46's, the spec's decision D9 (assumption log 10). -/
def Obligations.DerivedCountsEncodeOrAreRefused : Prop :=
  ∀ (len other : Nat) (v b t f : Bool) (m : Byte) (s s' : State), other ≤ 255 →
    (∃ k : Nat,
      exec (.b2bk len 16384) s = .next (answered s (.b2bk len 16384) (valid (.banks k))) ∧
      (len < 4177921 → ∃ hdr : Header,
        exec (.henc k other v b t f m) s' = .next (answered s' (.henc k other v b t f m) (valid (.header hdr))) ∧
        hdr[4].toNat = k) ∧
      (4177921 ≤ len →
        exec (.henc k other v b t f m) s' = .next (answered s' (.henc k other v b t f m)
          { status := .rangeError, result := none, errField := some .prgBanks, errValue := some k,
            errBytes := none }))) ∧
    (∃ k : Nat,
      exec (.b2bk len 8192) s = .next (answered s (.b2bk len 8192) (valid (.banks k))) ∧
      (len < 2088961 → ∃ hdr : Header,
        exec (.henc other k v b t f m) s' = .next (answered s' (.henc other k v b t f m) (valid (.header hdr))) ∧
        hdr[5].toNat = k) ∧
      (2088961 ≤ len →
        exec (.henc other k v b t f m) s' = .next (answered s' (.henc other k v b t f m)
          { status := .rangeError, result := none, errField := some .chrBanks, errValue := some k,
            errBytes := none })))

/-- R77 (an inference of the spec): no result overflows its port, with the bounds the rule gives for each operation. -/
def Obligations.NoResultOverflowsItsPort : Prop :=
  ∀ (s : State) (n b : Nat) (t : Bool) (prg chr : Byte),
    23 ≤ s.cfg.lenw → n < 2 ^ s.cfg.lenw → b < 2 ^ s.cfg.lenw →
      (0 < b → ∃ k p : Nat,
        exec (.b2bk n b) s = .next (answered s (.b2bk n b) (valid (.banks k))) ∧ k ≤ n ∧
        exec (.padl n b) s = .next (answered s (.padl n b) (valid (.paddedLength p))) ∧
        p < n + b ∧ p < 2 ^ (s.cfg.lenw + 1) ∧ k < 2 ^ s.cfg.resw ∧ p < 2 ^ s.cfg.resw) ∧
      (∃ q : Nat, exec (.bk2b n b) s = .next (answered s (.bk2b n b) (valid (.bytes q))) ∧ q < 2 ^ s.cfg.resw) ∧
      (∃ l : RegionLayout, exec (.rlay t prg chr) s = .next (answered s (.rlay t prg chr) (valid (.layout l))) ∧
        l.totalLen ≤ 6267408 ∧ 6267408 < 2 ^ 23 ∧ (2 : Nat) ^ 23 ≤ 2 ^ s.cfg.lenw ∧
        (Result.layout l).fits s.cfg.resw = true)

/-! ### Runs -/

/-- R98, R99 (the spec's decision D1): every request that can be made is answered in one step, which takes that one
request and adds that one transaction. The transaction is that request's: the operation the ports decode to, with the
response its own execution gives, or the reserved code on the `op` port (R84, the spec's decisions D4 and D12, assumption
log 12). -/
def Obligations.EveryPresentableRequestIsAnswered : Prop :=
  ∀ (s : State) (p : Ports) (rest : List Ports),
    s.pending = p :: rest → p.presentable s.cfg.lenw = true →
      ∃ tr : Transaction,
        step s = .next { cfg := s.cfg, pending := rest, trace := s.trace ++ [tr] } ∧
        (∀ i : Instr, decode p = .ok i →
          tr.request = .op i ∧ exec i s = .next (answered s i tr.response)) ∧
        (p.op = 0x0 ∨ 0x8 ≤ p.op → tr.request = .reserved p.op)

/-- Every step keeps a good run good: `LENW` stays admissible (R8), every request and every number of every response
fits its port (R43, R77), and every response is the one a block just after reset gives (R35, R94). -/
def Obligations.StepKeepsGoodRun : Prop :=
  ∀ s s' : State, GoodRun s → step s = .next s' → GoodRun s'

/-- The machine after reset is a good run (R8, R94). -/
def Obligations.ResetIsGoodRun : Prop := GoodRun State.reset

/-- R98, R100, R35, R94: a run answers the host's requests one at a time, in the order they are made, each as if it
were the first after reset; the run adds exactly those transactions, and then nothing is pending. -/
def Obligations.RunAnswersEachRequestInOrder : Prop :=
  ∀ s : State, (∀ p ∈ s.pending, p.presentable s.cfg.lenw = true) →
    (∀ p ∈ s.pending, (firstAnswer s.cfg p).isSome = true) ∧
    Sys2Proof.core.run s.pending.length s =
      .next { cfg := s.cfg, pending := [], trace := s.trace ++ s.pending.filterMap (firstAnswer s.cfg) }
end

