-- ==== Sys2Proof/Laws/Codec.lean ====
section
/-! SUPPORT. The bits of the two control bytes and the signature check. -/

namespace Sys2Proof.Machine

/-- Byte 6 as the concatenation of R55: `{mapperNumber[3:0], fourScreenVram, hasTrainer, hasBattery,
mirroringVertical}`. -/
theorem controlByte1_eq_append (v b t f : Bool) (m : Byte) :
    controlByte1 v b t f m =
      m.extractLsb' 0 4 ++ BitVec.ofBool f ++ BitVec.ofBool t ++ BitVec.ofBool b ++ BitVec.ofBool v := by
  revert v b t f m; decide

/-- Byte 7 as the concatenation of R55: `{mapperNumber[7:4], 0000}`. -/
theorem controlByte2_eq_append (m : Byte) : controlByte2 m = m.extractLsb' 4 4 ++ 0#4 := by
  revert m; decide

/-- The mapper number is put together from the two nibbles (R56). -/
theorem mapperOf_eq_append (c1 c2 : Byte) : mapperOf c1 c2 = c2.extractLsb' 4 4 ++ c1.extractLsb' 4 4 := by
  apply BitVec.eq_of_getLsbD_eq
  intro k hk
  have hmask : (240#8).getLsbD k = decide (4 ≤ k) := by revert k; decide
  simp only [mapperOf, BitVec.getLsbD_or, BitVec.getLsbD_and, BitVec.getLsbD_ushiftRight, BitVec.getLsbD_append,
    BitVec.getLsbD_extractLsb']
  by_cases h4 : k < 4
  · simp [hmask, h4]
  · have : c1.getLsbD (4 + k) = false := BitVec.getLsbD_of_ge _ _ (by omega)
    simp [hmask, h4, this, show 4 + (k - 4) = k by omega, show k - 4 < 4 by omega, show 4 ≤ k by omega]

/-- The sixteen bytes HENC writes, byte for byte (R25). -/
theorem packHeader_eq (prg chr : Nat) (v b t f : Bool) (m : Byte) :
    packHeader prg chr v b t f m =
      #v[0x4E, 0x45, 0x53, 0x1A, countByte prg, countByte chr, controlByte1 v b t f m, controlByte2 m,
        0, 0, 0, 0, 0, 0, 0, 0] := by
  simp [packHeader, signature]

/-- A count of at most 255 is written without loss (R55). -/
theorem countByte_toNat {n : Nat} (h : n ≤ 255) : (countByte n).toNat = n := by
  simp only [countByte, BitVec.toNat_ofNat]
  omega

/-- The weights of byte 6 (R26). -/
theorem controlByte1_toNat (v b t f : Bool) (m : Byte) :
    (controlByte1 v b t f m).toNat = m.toNat % 16 * 16 + f.toNat * 8 + t.toNat * 4 + b.toNat * 2 + v.toNat := by
  revert v b t f m; decide

/-- The low mapper nibble is bits 7:4 of its control byte (R56). -/
theorem mapperLow_eq_extract (c : Byte) : mapperLow c = c.extractLsb' 4 4 := by
  revert c; decide

/-- The high mapper nibble is bits 7:4 of its control byte (R56). -/
theorem mapperHigh_eq_extract (c : Byte) : mapperHigh c = c.extractLsb' 4 4 := by
  revert c; decide

/-- The signature comparison, byte by byte (R56). -/
theorem signatureBytes_eq_iff (hdr : Header) : signatureBytes hdr = signature ↔ hasSignature hdr := by
  simp [signatureBytes, signature, hasSignature]

/-- HENC's answer for counts in range (R55). -/
theorem hencAnswer_inRange {prg chr : Nat} (hp : prg ≤ 255) (hc : chr ≤ 255) (v b t f : Bool) (m : Byte) :
    hencAnswer prg chr v b t f m = .ok (.header (packHeader prg chr v b t f m)) := by
  simp [hencAnswer, maxBankCount, Nat.not_lt.mpr hp, Nat.not_lt.mpr hc]

/-- HENC's answer when the program count is out of range (R55, R87). -/
theorem hencAnswer_prg {prg : Nat} (hp : 255 < prg) (chr : Nat) (v b t f : Bool) (m : Byte) :
    hencAnswer prg chr v b t f m = .error (.rangeError .prgBanks prg) := by
  simp [hencAnswer, maxBankCount, hp]

/-- HENC's answer when only the graphics count is out of range (R55, R87). -/
theorem hencAnswer_chr {prg chr : Nat} (hp : prg ≤ 255) (hc : 255 < chr) (v b t f : Bool) (m : Byte) :
    hencAnswer prg chr v b t f m = .error (.rangeError .chrBanks chr) := by
  simp [hencAnswer, maxBankCount, Nat.not_lt.mpr hp, hc]

/-- HDEC's answer for a header with the signature (R56). -/
theorem hdecAnswer_signed {hdr : Header} (h : hasSignature hdr) : hdecAnswer hdr = .ok (.fields (unpackHeader hdr)) := by
  simp [hdecAnswer, (signatureBytes_eq_iff hdr).mpr h]

/-- HDEC's answer for any other header (R56). -/
theorem hdecAnswer_unsigned {hdr : Header} (h : ¬ hasSignature hdr) :
    hdecAnswer hdr = .error (.formatError (signatureBytes hdr)) := by
  simp [hdecAnswer, mt (signatureBytes_eq_iff hdr).mp h]

end Sys2Proof.Machine
end

