-- ==== Sys2Proof/Laws/Decode.lean ====
section
/-! SUPPORT. The operation codes and the decoder. -/

namespace Sys2Proof

/-- No two operations share a code, and every code of R42 selects its own operation. -/
@[simp] theorem mnemonicOf_opCode (m : Mnemonic) : mnemonicOf (opCode m) = some m := by
  cases m <;> rfl

theorem mnemonicOf_eq_some {op : OpCode} {m : Mnemonic} : mnemonicOf op = some m ↔ op = opCode m := by
  constructor
  · revert m
    revert op
    unfold mnemonicOf opCode
    intro op
    have hop : op = BitVec.ofNat 4 op.toNat := by simp
    intro m h
    split at h <;> simp_all <;> (subst h; simp_all)
  · rintro rfl
    exact mnemonicOf_opCode m

/-- The reserved codes are exactly 0x0 and 0x8 to 0xF (R49). -/
theorem mnemonicOf_eq_none {op : OpCode} : mnemonicOf op = none ↔ op = 0x0 ∨ 0x8 ≤ op := by
  revert op; decide

theorem decode_of_mnemonic {p : Ports} {m : Mnemonic} (h : mnemonicOf p.op = some m) :
    decode p = .ok (operandsFrom p m) := by
  simp [decode, h]

theorem decode_of_reserved {p : Ports} (h : mnemonicOf p.op = none) : decode p = .error (.reservedOp p.op) := by
  simp [decode, h]

@[simp] theorem operandsFrom_mnemonic (p : Ports) (m : Mnemonic) : (operandsFrom p m).mnemonic = m := by
  cases m <;> rfl

theorem decode_eq_ok {p : Ports} {i : Instr} :
    decode p = .ok i ↔ p.op = opCode i.mnemonic ∧ operandsFrom p i.mnemonic = i := by
  constructor
  · intro h
    cases hm : mnemonicOf p.op with
    | none => simp [decode, hm] at h
    | some m =>
      obtain rfl : operandsFrom p m = i := by simpa [decode, hm] using h
      simp [mnemonicOf_eq_some.mp hm]
  · rintro ⟨h, hi⟩
    simp [decode, h, hi]

/-- A request has as many operand words as its format has ports (R43). -/
theorem operandValues_length (lenw : Nat) (i : Instr) :
    (operandValues i).length = (operandWidths lenw i.mnemonic).length := by
  cases i <;> simp [operandValues, operandWidths, Instr.mnemonic]

end Sys2Proof
end

