-- ==== Sys2Proof/Laws/State.lean ====
section
/-! SUPPORT. The fields of a state after each update. -/

namespace Sys2Proof.Machine

@[simp] theorem State.record_cfg (s : State) (q : Request) (a : Response) : (s.record q a).cfg = s.cfg := rfl

@[simp] theorem State.record_pending (s : State) (q : Request) (a : Response) :
    (s.record q a).pending = s.pending := rfl

@[simp] theorem State.record_trace (s : State) (q : Request) (a : Response) :
    (s.record q a).trace = s.trace ++ [{ request := q, response := a }] := rfl

@[simp] theorem State.reset_cfg : State.reset.cfg = Config.standard := rfl

@[simp] theorem State.reset_pending : State.reset.pending = [] := rfl

@[simp] theorem State.reset_trace : State.reset.trace = [] := rfl

end Sys2Proof.Machine
end

