-- ==== Sys2Proof/Laws/Ops.lean ====
section
/-! SUPPORT. What the shared operations do: one lemma for each. -/

namespace Sys2Proof.Machine

theorem okResponse_eq_valid (r : Result) : okResponse r = valid r := rfl

theorem record_op_eq_answered (s : State) (i : Instr) (a : Response) : s.record (.op i) a = answered s i a := rfl

theorem respond_eq (q : Request) (r : Result) (s : State) : respond q r s = .next (s.record q (okResponse r)) := rfl

theorem raise_eq (q : Request) (e : Exn) (s : State) : raise q e s = .next (s.record q (errorResponse e)) := rfl

theorem complete_ok (q : Request) (r : Result) (s : State) :
    complete q (.ok r) s = .next (s.record q (okResponse r)) := rfl

theorem complete_error (q : Request) (e : Exn) (s : State) :
    complete q (.error e) s = .next (s.record q (errorResponse e)) := rfl

/-- The response an operation's answer becomes. -/
def responseOf (answer : Except Exn Result) : Response :=
  match answer with
  | .ok r => okResponse r
  | .error e => errorResponse e

/-- `complete` always reaches a next state, in which one transaction is added and nothing else changes. -/
theorem complete_eq (q : Request) (answer : Except Exn Result) (s : State) :
    complete q answer s = .next (s.record q (responseOf answer)) := by
  cases answer <;> rfl

theorem takeRequest_nil {s : State} (h : s.pending = []) : takeRequest s = none := by
  simp [takeRequest, h]

theorem takeRequest_cons {s : State} {p : Ports} {rest : List Ports} (h : s.pending = p :: rest) :
    takeRequest s = some (p, { s with pending := rest }) := by
  simp [takeRequest, h]

/-- An error response carries no result port and does carry an error field and value (R46, R85). -/
theorem errorResponse_shape (e : Exn) :
    (errorResponse e).result = none ∧ (errorResponse e).status ≠ .ok ∧
      (∃ f, (errorResponse e).errField = some f) ∧ (∃ v, (errorResponse e).errValue = some v) := by
  cases e <;> simp [errorResponse]

end Sys2Proof.Machine
end

