-- ==== Sys2Proof/Laws/PerInstr.lean ====
section
/-! SUPPORT. Families of statements made instruction by instruction. -/

namespace Sys2Proof.Laws.PortsRoundTrip

/-- The ports the encoder drives decode to the instruction, whatever its operands (R42, R43). -/
def Statement (i : Instr) : Prop := decode (encode i) = .ok i

theorem henc (prg chr : Nat) (v b t f : Bool) (m : Byte) : Statement (.henc prg chr v b t f m) := rfl
theorem hdec (hdr : Header) : Statement (.hdec hdr) := rfl
theorem b2bk (n b : Nat) : Statement (.b2bk n b) := rfl
theorem padl (n b : Nat) : Statement (.padl n b) := rfl
theorem isp2 (n : Nat) : Statement (.isp2 n) := rfl
theorem bk2b (k b : Nat) : Statement (.bk2b k b) := rfl
theorem rlay (t : Bool) (prg chr : Byte) : Statement (.rlay t prg chr) := rfl

end Sys2Proof.Laws.PortsRoundTrip
end

