-- ==== Sys2Proof/Laws/Sizer.lean ====
section
/-! SUPPORT. The arithmetic of the bank sizer. -/

namespace Sys2Proof.Machine

/-- What rounding up means: `k` banks hold `n` bytes exactly when `k` is at least the rounded-up quotient (R66). -/
theorem ceilDiv_le_iff {n b : Nat} (hb : 0 < b) (k : Nat) : ceilDiv n b ≤ k ↔ n ≤ k * b := by
  unfold ceilDiv
  rw [← Nat.lt_succ_iff, Nat.div_lt_iff_lt_mul hb, Nat.succ_mul]
  omega

theorem le_paddedTo {n b : Nat} (hb : 0 < b) : n ≤ paddedTo n b := (ceilDiv_le_iff hb _).mp le_rfl

theorem paddedTo_lt {n b : Nat} (hb : 0 < b) : paddedTo n b < n + b := by
  have h := Nat.div_mul_le_self (n + b - 1) b
  unfold paddedTo ceilDiv
  omega

theorem dvd_paddedTo (n b : Nat) : b ∣ paddedTo n b := Dvd.intro_left _ rfl

@[simp] theorem ceilDiv_mul {b : Nat} (hb : 0 < b) (k : Nat) : ceilDiv (k * b) b = k := by
  apply le_antisymm
  · exact (ceilDiv_le_iff hb k).mpr le_rfl
  · exact Nat.le_of_mul_le_mul_right ((ceilDiv_le_iff hb _).mp le_rfl) hb

theorem ceilDiv_le_self {n b : Nat} (hb : 0 < b) : ceilDiv n b ≤ n :=
  (ceilDiv_le_iff hb n).mpr (Nat.le_mul_of_pos_right n hb)

theorem withBankSize_zero (r : Result) : withBankSize 0 r = .error (.badArg 0) := rfl

theorem withBankSize_pos {b : Nat} (hb : 0 < b) (r : Result) : withBankSize b r = .ok r := by
  simp [withBankSize, Nat.pos_iff_ne_zero.mp hb]

end Sys2Proof.Machine
end

