-- ==== Sys2Proof/Laws/Step.lean ====
section
/-! SUPPORT. What one step can do, said once. -/

namespace Sys2Proof.Machine

/-- The answer of each operation, as a function of its operands alone. -/
def answerOf : Instr → Except Exn Result
  | .henc prg chr v b t f m => hencAnswer prg chr v b t f m
  | .hdec hdr => hdecAnswer hdr
  | .b2bk n b => withBankSize b (.banks (ceilDiv n b))
  | .padl n b => withBankSize b (.paddedLength (paddedTo n b))
  | .isp2 n => .ok (.isPow2 (isPowerOfTwo n))
  | .bk2b k b => .ok (.bytes (banksToBytes k b))
  | .rlay t prg chr => .ok (.layout (regionLayout t prg chr))

/-- Every arm of `exec` records the operation's own answer. -/
theorem exec_eq (i : Instr) (s : State) : exec i s = .next (s.record (.op i) (responseOf (answerOf i))) := by
  cases i <;> first | rfl | exact complete_eq _ _ _

/-- The transaction a step makes of ports that can be presented. -/
def transactionOf (p : Ports) : Transaction :=
  match decode p with
  | .ok i => { request := .op i, response := responseOf (answerOf i) }
  | .error (.reservedOp op) => { request := .reserved op, response := errorResponse (.illegalOp op) }

theorem transactionOf_operation {p : Ports} {m : Mnemonic} (h : mnemonicOf p.op = some m) :
    transactionOf p =
      { request := .op (operandsFrom p m), response := responseOf (answerOf (operandsFrom p m)) } := by
  simp [transactionOf, decode_of_mnemonic h]

theorem transactionOf_reserved {p : Ports} (h : mnemonicOf p.op = none) :
    transactionOf p = { request := .reserved p.op, response := errorResponse (.illegalOp p.op) } := by
  simp [transactionOf, decode_of_reserved h]

/-- A step on ports that can be presented. -/
theorem step_presentable {s : State} {p : Ports} {rest : List Ports} (h : s.pending = p :: rest)
    (hp : p.presentable s.cfg.lenw = true) :
    step s = .next { cfg := s.cfg, pending := rest, trace := s.trace ++ [transactionOf p] } := by
  unfold Ports.presentable at hp
  cases hd : decode p with
  | error e =>
    obtain ⟨op⟩ := e
    simp [step, takeRequest_cons h, transactionOf, hd, raise_eq, State.record]
  | ok i =>
    simp only [hd] at hp
    simp [step, takeRequest_cons h, transactionOf, hd, hp, exec_eq, State.record]

/-- A step that answers a next state either had no request and changed nothing, or took the next request, which could
be presented, and added its transaction. -/
theorem step_cases {s s' : State} (h : step s = .next s') :
    (s.pending = [] ∧ s' = s) ∨
    ∃ p rest, s.pending = p :: rest ∧ p.presentable s.cfg.lenw = true ∧
      s' = { cfg := s.cfg, pending := rest, trace := s.trace ++ [transactionOf p] } := by
  cases hp : s.pending with
  | nil =>
    left
    rw [step, takeRequest_nil hp] at h
    exact ⟨rfl, (by simpa [idle] using h.symm)⟩
  | cons p rest =>
    right
    by_cases hw : p.presentable s.cfg.lenw = true
    · rw [step_presentable hp hw] at h
      exact ⟨p, rest, rfl, hw, (by simpa using h.symm)⟩
    · exfalso
      unfold Ports.presentable at hw
      rw [step, takeRequest_cons hp] at h
      cases hd : decode p with
      | error e => simp [hd] at hw
      | ok i => simp [hd] at hw h; simp [hw] at h

end Sys2Proof.Machine
end

