-- ==== Sys2Proof/Machine/Notation.lean ====
section
/-! DEFINITION. The written form of requests, encodings and responses (spec/30_encoding.md R51, R53). Notation only:
no step reads it. -/

namespace Sys2Proof.Machine

/-- One upper-case hex digit. -/
def hexDigit (d : Nat) : Char := Char.ofNat (if d < 10 then 48 + d else 55 + d)

/-- The lowest `digits` hex digits of `v`, most significant first. -/
def hexDigits : Nat → Nat → List Char
  | 0, _ => []
  | digits + 1, v => hexDigits digits (v / 16) ++ [hexDigit (v % 16)]

/-- A number at a fixed count of hex digits, with no prefix. -/
def hexString (digits v : Nat) : String := String.ofList (hexDigits digits v)

/-- Bytes as hex pairs separated by spaces (R51). -/
def hexPairs (bs : List Byte) : String := String.intercalate " " (bs.map fun b => hexString 2 b.toNat)

/-- A Boolean as 0 or 1 (R51). -/
def bitString (b : Bool) : String := if b then "1" else "0"

/-- The mnemonic as the table spells it (R42). -/
def mnemonicName : Mnemonic → String
  | .henc => "HENC"
  | .hdec => "HDEC"
  | .b2bk => "B2BK"
  | .padl => "PADL"
  | .isp2 => "ISP2"
  | .bk2b => "BK2B"
  | .rlay => "RLAY"

/-- The operand port names of each operation, in the order of R43; the sixteen ports of format D are written under the
one name `hdr`. -/
def portNames : Mnemonic → List String
  | .henc => ["prgBanks", "chrBanks", "mirroringVertical", "hasBattery", "hasTrainer", "fourScreenVram",
      "mapperNumber"]
  | .hdec => ["hdr"]
  | .b2bk => ["byteLength", "bankSize"]
  | .padl => ["byteLength", "bankSize"]
  | .isp2 => ["n"]
  | .bk2b => ["bankCount", "bankSize"]
  | .rlay => ["hasTrainer", "prgBanks", "chrBanks"]

/-- A request as R51 writes it: the mnemonic and the operands in port order, separated by commas, numbers in decimal;
HDEC's sixteen bytes as hex pairs. -/
def writtenRequest (i : Instr) : String :=
  mnemonicName i.mnemonic ++ " " ++
    match i with
    | .hdec hdr => hexPairs hdr.toList
    | _ => String.intercalate ", " ((operandValues i).map toString)

/-- A value at its port width: one digit for a Boolean, else `0x` and one hex digit for each four bits (R53). -/
def writtenPortWord (w : PortWord) : String :=
  if w.width = 1 then toString w.value else "0x" ++ hexString ((w.width + 3) / 4) w.value

/-- The encoding of a request as R53 writes it. -/
def writtenEncoding (lenw : Nat) (i : Instr) : String :=
  "op=0x" ++ hexString 1 (opCode i.mnemonic).toNat ++ " " ++
    match i with
    | .hdec hdr => "hdr=" ++ hexPairs hdr.toList
    | _ => String.intercalate " " (List.zipWith (fun name w => name ++ "=" ++ writtenPortWord w)
        (portNames i.mnemonic) (encodeWords lenw i).tail)

/-- The name of a status (R45). -/
def statusName : Status → String
  | .ok => "OK"
  | .formatError => "FORMAT_ERROR"
  | .rangeError => "RANGE_ERROR"
  | .badArg => "BAD_ARG"
  | .illegalOp => "ILLEGAL_OP"

/-- The name of an error field (R46). -/
def errFieldName : ErrField → String
  | .signature => "SIGNATURE"
  | .prgBanks => "PRG_BANKS"
  | .chrBanks => "CHR_BANKS"
  | .bankSize => "BANK_SIZE"
  | .op => "OP"

/-- The result ports of a response with their values (R44, R51). -/
def writtenResult : Result → List String
  | .header hdr => ["hdr=" ++ hexPairs hdr.toList]
  | .fields f =>
    ["magic=" ++ hexPairs f.magic.toList, "prgBanks=" ++ toString f.prgBanks.toNat,
      "chrBanks=" ++ toString f.chrBanks.toNat, "mirroringVertical=" ++ bitString f.mirroringVertical,
      "hasBattery=" ++ bitString f.hasBattery, "hasTrainer=" ++ bitString f.hasTrainer,
      "fourScreenVram=" ++ bitString f.fourScreenVram, "mapperLowNibble=" ++ toString f.mapperLowNibble.toNat,
      "mapperHighNibble=" ++ toString f.mapperHighNibble.toNat, "mapperNumber=" ++ toString f.mapperNumber.toNat,
      "reserved=" ++ hexPairs f.reserved.toList]
  | .banks n => ["banks=" ++ toString n]
  | .paddedLength n => ["paddedLength=" ++ toString n]
  | .isPow2 b => ["isPow2=" ++ bitString b]
  | .bytes n => ["bytes=" ++ toString n]
  | .layout l =>
    ["trainerLen=" ++ toString l.trainerLen, "prgOffset=" ++ toString l.prgOffset, "prgLen=" ++ toString l.prgLen,
      "chrOffset=" ++ toString l.chrOffset, "chrLen=" ++ toString l.chrLen, "totalLen=" ++ toString l.totalLen]

/-- A response as R51 writes it: `-> OK result=value, ...` or `-> STATUS errField=NAME errValue=value`, the bytes
received following where the response carries them (assumption log 15). -/
def writtenResponse (a : Response) : String :=
  "-> " ++ statusName a.status ++
    (match a.result with
      | some r => " " ++ String.intercalate ", " (writtenResult r)
      | none => "") ++
    (match a.errField with
      | some e => " errField=" ++ errFieldName e
      | none => "") ++
    (match a.errValue with
      | some v => " errValue=" ++ toString v
      | none => "") ++
    (match a.errBytes with
      | some bs => " errBytes=" ++ hexPairs bs.toList
      | none => "")

end Sys2Proof.Machine
end

