-- ==== Sys2Proof/Tests/Slice0.lean ====
section
/-! SUPPORT. Small tests. Expected values are the spec's own: the worked examples of the rules and the vectors T-… of
spec/95_test_vectors.md, named in each comment. The `witness_` theorems show, for each statement with hypotheses, a
concrete state and operands that meet them. -/

namespace Sys2Proof.Tests

open Sys2Proof Sys2Proof.Machine

/-- A block just after reset whose host has one request to make. -/
def withRequest (p : Ports) : State := { State.reset with pending := [p] }

/-- The response of the transaction an outcome ends with. -/
def responseIn : Outcome → Option Response
  | .next t => t.trace.getLast?.map Transaction.response
  | .fault _ => none
  | .refused _ => none

/-- An outcome is the refusal of a request that cannot be presented. -/
def isNotPresentable : Outcome → Bool
  | .refused .notPresentable => true
  | _ => false

/-- A header with good signature, byte 6 = 0x15, byte 7 = 0x2F and reserved bytes 1 to 8 (T-HDEC-4). -/
def headerHdec4 : Header := #v[0x4E, 0x45, 0x53, 0x1A, 0x02, 0x01, 0x15, 0x2F, 1, 2, 3, 4, 5, 6, 7, 8]

/-! ### Each check of WellFormed refuses an ill-formed term -/

theorem test_wf_config : Config.wf ⟨22⟩ = false ∧ Config.wf ⟨23⟩ = true := by decide
theorem test_wf_henc_prg : (Instr.henc (2 ^ 32) 0 false false false false 0).wf 32 = false := by decide
theorem test_wf_henc_chr : (Instr.henc 0 (2 ^ 32) false false false false 0).wf 32 = false := by decide
theorem test_wf_b2bk : (Instr.b2bk (2 ^ 32) 1).wf 32 = false ∧ (Instr.b2bk 1 (2 ^ 32)).wf 32 = false := by decide
theorem test_wf_padl : (Instr.padl (2 ^ 32) 1).wf 32 = false ∧ (Instr.padl 1 (2 ^ 32)).wf 32 = false := by decide
theorem test_wf_isp2 : (Instr.isp2 (2 ^ 32)).wf 32 = false ∧ (Instr.isp2 (2 ^ 32 - 1)).wf 32 = true := by decide
theorem test_wf_bk2b : (Instr.bk2b (2 ^ 32) 1).wf 32 = false ∧ (Instr.bk2b 1 (2 ^ 32)).wf 32 = false := by decide

/-! ### Decoding: the ports and the port words of R42, R43 written out by hand -/

theorem test_decode_henc_ports :
    decode { quietPorts 0x1 with e := ⟨2, 1, false, false, true, false, 0x21⟩ } =
      .ok (.henc 2 1 false false true false 0x21) := by decide
theorem test_decode_hdec_ports : decode { quietPorts 0x2 with d := ⟨headerHdec4⟩ } = .ok (.hdec headerHdec4) := by decide
theorem test_decode_b2bk_ports : decode { quietPorts 0x3 with s2 := ⟨10, 3⟩ } = .ok (.b2bk 10 3) := by decide
theorem test_decode_padl_ports : decode { quietPorts 0x4 with s2 := ⟨10, 3⟩ } = .ok (.padl 10 3) := by decide
theorem test_decode_isp2_ports : decode { quietPorts 0x5 with s1 := ⟨6⟩ } = .ok (.isp2 6) := by decide
theorem test_decode_bk2b_ports : decode { quietPorts 0x6 with m := ⟨5, 7⟩ } = .ok (.bk2b 5 7) := by decide
theorem test_decode_rlay_ports : decode { quietPorts 0x7 with l := ⟨true, 2, 1⟩ } = .ok (.rlay true 2 1) := by decide
theorem test_decode_reserved :
    decode (quietPorts 0x0) = .error (.reservedOp 0x0) ∧ decode (quietPorts 0x8) = .error (.reservedOp 0x8) ∧
      decode (quietPorts 0xF) = .error (.reservedOp 0xF) := by decide

/-- R53: `PADL 12000, 16384` encodes as `op=0x4 byteLength=0x00002EE0 bankSize=0x00004000`. -/
theorem test_words_padl :
    encodeWords 32 (.padl 12000 16384) = [⟨4, 0x4⟩, ⟨32, 0x00002EE0⟩, ⟨32, 0x00004000⟩] := by decide
/-- T-HENC-8. -/
theorem test_words_henc :
    encodeWords 32 (.henc 2 1 false false true false 0x21) =
      [⟨4, 1⟩, ⟨32, 2⟩, ⟨32, 1⟩, ⟨1, 0⟩, ⟨1, 0⟩, ⟨1, 1⟩, ⟨1, 0⟩, ⟨8, 0x21⟩] := by decide
theorem test_words_reserved : decodeWords 32 [⟨4, 0x9⟩] = .error (.reservedOp 0x9) := by decide
theorem test_words_no_op : decodeWords 32 [] = .error .badOpWord ∧ decodeWords 32 [⟨8, 1⟩] = .error .badOpWord := by
  decide
theorem test_words_wrong_ports : decodeWords 32 [⟨4, 5⟩, ⟨8, 1⟩] = .error (.wrongPorts .isp2) := by decide
theorem test_words_too_wide : decodeWords 32 [⟨4, 5⟩, ⟨32, 2 ^ 32⟩] = .error (.valueTooWide .isp2) := by decide

theorem test_table_words :
    decodeTableWord 8 0x1 = some (.henc 0 0 false false false false 0) ∧
      decodeTableWord 8 0x2 = some (.hdec (Vector.replicate 16 0)) ∧ decodeTableWord 8 0x3 = some (.b2bk 0 0) ∧
      decodeTableWord 8 0x4 = some (.padl 0 0) ∧ decodeTableWord 8 0x5 = some (.isp2 0) ∧
      decodeTableWord 8 0x6 = some (.bk2b 0 0) ∧ decodeTableWord 8 0x7 = some (.rlay false 0 0) ∧
      decodeTableWord 8 0x0 = none ∧ decodeTableWord 8 0x8 = none := by decide
theorem test_fetch_word_runs :
    responseIn (step (State.reset.withFetchWord 8 0x7)) = some (valid (.layout ⟨0, 16, 0, 16, 0, 16⟩)) := by decide

/-! ### The operations -/

/-- T-HENC-8. -/
theorem test_henc_trainer :
    responseIn (exec (.henc 2 1 false false true false 0x21) State.reset) =
      some (valid (.header #v[0x4E, 0x45, 0x53, 0x1A, 0x02, 0x01, 0x14, 0x20, 0, 0, 0, 0, 0, 0, 0, 0])) := by decide
/-- T-HENC-5. -/
theorem test_henc_chr_256 :
    responseIn (exec (.henc 255 256 false false false false 0) State.reset) =
      some { status := .rangeError, errField := some .chrBanks, errValue := some 256 } := by decide
/-- T-HDEC-4. -/
theorem test_hdec_reserved_nonzero :
    responseIn (exec (.hdec headerHdec4) State.reset) =
      some (valid (.fields
        { magic := #v[0x4E, 0x45, 0x53, 0x1A], prgBanks := 2, chrBanks := 1, mirroringVertical := true,
          hasBattery := false, hasTrainer := true, fourScreenVram := false, mapperLowNibble := 1,
          mapperHighNibble := 2, mapperNumber := 33, reserved := #v[1, 2, 3, 4, 5, 6, 7, 8] })) := by decide
/-- T-HDEC-12. -/
theorem test_hdec_reversed_signature :
    responseIn (exec (.hdec #v[0x1A, 0x53, 0x45, 0x4E, 1, 1, 1, 0, 0, 0, 0, 0, 0, 0, 0, 0]) State.reset) =
      some { status := .formatError, errField := some .signature, errValue := some 0,
             errBytes := some #v[0x1A, 0x53, 0x45, 0x4E] } := by decide
/-- T-B2BK-11. -/
theorem test_b2bk_256_banks :
    responseIn (exec (.b2bk 4177921 16384) State.reset) = some (valid (.banks 256)) := by decide
/-- T-B2BK-22. -/
theorem test_b2bk_zero_size :
    responseIn (exec (.b2bk 0 0) State.reset) =
      some { status := .badArg, errField := some .bankSize, errValue := some 0 } := by decide
/-- T-PADL-18: 33 bits. -/
theorem test_padl_33_bits :
    responseIn (exec (.padl 4294967295 16384) State.reset) = some (valid (.paddedLength 4294967296)) := by decide
/-- T-PADL-13. -/
theorem test_padl_size_three : responseIn (exec (.padl 10 3) State.reset) = some (valid (.paddedLength 12)) := by decide
/-- T-ISP2-1. -/
theorem test_isp2_zero : responseIn (exec (.isp2 0) State.reset) = some (valid (.isPow2 false)) := by decide
/-- T-ISP2-17. -/
theorem test_isp2_top_bit : responseIn (exec (.isp2 2147483648) State.reset) = some (valid (.isPow2 true)) := by decide
/-- T-BK2B-13. -/
theorem test_bk2b_largest :
    responseIn (exec (.bk2b 4294967295 4294967295) State.reset) = some (valid (.bytes 18446744065119617025)) := by decide
/-- T-BK2B-5. -/
theorem test_bk2b_zero_size : responseIn (exec (.bk2b 5 0) State.reset) = some (valid (.bytes 0)) := by decide
/-- T-RLAY-3. -/
theorem test_rlay_trainer :
    responseIn (exec (.rlay true 2 1) State.reset) = some (valid (.layout ⟨512, 528, 32768, 33296, 8192, 41488⟩)) := by
  decide
/-- T-RLAY-8. -/
theorem test_rlay_largest :
    responseIn (exec (.rlay true 255 255) State.reset) =
      some (valid (.layout ⟨512, 528, 4177920, 4178448, 2088960, 6267408⟩)) := by decide
/-- T-ILL-3. -/
theorem test_step_reserved :
    responseIn (step (withRequest (quietPorts 0xF))) =
      some { status := .illegalOp, errField := some .op, errValue := some 15 } := by decide
theorem test_step_unpresentable : isNotPresentable (step (withRequest (encode (.isp2 (2 ^ 32))))) = true := by decide

/-! ### Written forms (R51, R53) -/

/-- R53's example. -/
theorem test_written_encoding :
    writtenEncoding 32 (.padl 12000 16384) = "op=0x4 byteLength=0x00002EE0 bankSize=0x00004000" := by decide
/-- T-RLAY-3. -/
theorem test_written_request : writtenRequest (.rlay true 2 1) = "RLAY 1, 2, 1" := by decide
/-- T-HENC-4. -/
theorem test_written_error :
    writtenResponse { status := .rangeError, errField := some .prgBanks, errValue := some 256 } =
      "-> RANGE_ERROR errField=PRG_BANKS errValue=256" := by decide

/-! ### The hypotheses of the statements are met -/

theorem witness_PortWordsRoundTrip :
    (Instr.padl 4294967295 0).wf 32 = true ∧ decodeWords 32 [⟨4, 5⟩, ⟨32, 0⟩] = .ok (.isp2 0) := by decide

theorem witness_StepRunsDecodedRequest :
    (withRequest (encode (.bk2b 5 7))).pending = [encode (.bk2b 5 7)] ∧
      decode (encode (.bk2b 5 7)) = .ok (.bk2b 5 7) ∧
      (Instr.bk2b 5 7).wf (withRequest (encode (.bk2b 5 7))).cfg.lenw = true := by decide

theorem witness_StepWithoutRequestChangesNothing : State.reset.pending = [] := rfl

theorem witness_StepRefusesUnpresentable :
    (withRequest (encode (.isp2 (2 ^ 32)))).pending = [encode (.isp2 (2 ^ 32))] ∧
      decode (encode (.isp2 (2 ^ 32))) = .ok (.isp2 (2 ^ 32)) ∧
      (Instr.isp2 (2 ^ 32)).wf (withRequest (encode (.isp2 (2 ^ 32)))).cfg.lenw = false := by decide

theorem witness_ReservedOpAnswersIllegalOp :
    (withRequest (quietPorts 0x0)).pending = [quietPorts 0x0] ∧ (quietPorts 0x0).op = 0x0 ∧
      (withRequest (quietPorts 0x8)).pending = [quietPorts 0x8] ∧ 0x8 ≤ (quietPorts 0x8).op ∧
      (withRequest (quietPorts 0xF)).pending = [quietPorts 0xF] ∧ 0x8 ≤ (quietPorts 0xF).op := by decide

/-- RLAY again, with another value on a port outside its format, after an error and with a request to follow. -/
theorem witness_ResponseDependsOnOwnRequestOnly :
    let p := encode (.rlay true 2 1)
    let p' := { encode (.rlay true 2 1) with s1 := ⟨9⟩ }
    let s := withRequest p
    let s' : State :=
      { State.reset with pending := [p', quietPorts 0x0],
                         trace := [⟨.op (.padl 1 0), errorResponse (.badArg 0)⟩] }
    s.cfg = s'.cfg ∧ s.pending = [p] ∧ s'.pending = p' :: [quietPorts 0x0] ∧
      p.op = p'.op ∧ (p.op = 0x1 → p.e = p'.e) ∧ (p.op = 0x2 → p.d = p'.d) ∧
      (p.op = 0x3 ∨ p.op = 0x4 → p.s2 = p'.s2) ∧ (p.op = 0x5 → p.s1 = p'.s1) ∧ (p.op = 0x6 → p.m = p'.m) ∧
      (p.op = 0x7 → p.l = p'.l) ∧ p ≠ p' ∧
      (responseIn (step s)).isSome = true := by decide

/-- One operation answered OK and one refused: the two clauses. -/
theorem witness_ResponseIsResultOrError :
    (responseIn (exec (.isp2 0) State.reset)).map Response.status = some .ok ∧
      (responseIn (exec (.henc 256 0 false false false false 0) State.reset)).map Response.status =
        some .rangeError := by decide

/-- One request for each clause: each cause of R80, and one answered OK. -/
theorem witness_ExceptionCausesAreComplete :
    (withRequest (encode (.b2bk 1 0))).pending = [encode (.b2bk 1 0)] ∧
      (encode (.b2bk 1 0)).presentable (withRequest (encode (.b2bk 1 0))).cfg.lenw = true ∧
      (encode (.padl 1 0)).presentable 32 = true ∧ (quietPorts 0x8).presentable 32 = true ∧
      (encode (.henc 256 0 false false false false 0)).presentable 32 = true ∧
      (encode (.hdec (Vector.replicate 16 0))).presentable 32 = true ∧
      (encode (.b2bk 1 1)).presentable 32 = true := by decide

/-- Each count out of range alone, one for each clause. -/
theorem witness_RangeErrorOnlyFromHenc :
    let p := encode (.henc 256 255 false false false false 0)
    let p' := encode (.henc 255 256 false false false false 0)
    (withRequest p).pending = [p] ∧ p.presentable (withRequest p).cfg.lenw = true ∧ p.op = 0x1 ∧
      255 < p.e.prgBanks ∧ (responseIn (step (withRequest p))).map Response.status = some .rangeError ∧
      (withRequest p').pending = [p'] ∧ p'.presentable (withRequest p').cfg.lenw = true ∧ p'.op = 0x1 ∧
      255 < p'.e.chrBanks ∧ (responseIn (step (withRequest p'))).map Response.status = some .rangeError := by decide

theorem witness_FormatErrorOnlyFromHdec :
    let p := encode (.hdec (Vector.replicate 16 0))
    (withRequest p).pending = [p] ∧ p.presentable (withRequest p).cfg.lenw = true ∧
      p.op = 0x2 ∧ ¬ hasSignature p.d.hdr := by
  unfold hasSignature
  decide

/-- A request of an operation and a reserved code: the two clauses. -/
theorem witness_EveryPresentableRequestIsAnswered :
    let p := encode (.isp2 4294967295)
    let p' := quietPorts 0x8
    (withRequest p).pending = [p] ∧ p.presentable (withRequest p).cfg.lenw = true ∧
      decode p = .ok (.isp2 4294967295) ∧
      (withRequest p').pending = [p'] ∧ p'.presentable (withRequest p').cfg.lenw = true ∧ 0x8 ≤ p'.op := by decide

/-- Ports with every code, the reserved ones at both ends of their range. -/
theorem witness_DecodeReadsNamedFormatPorts :
    (quietPorts 0x1).op = 0x1 ∧ (quietPorts 0x2).op = 0x2 ∧ (quietPorts 0x3).op = 0x3 ∧ (quietPorts 0x4).op = 0x4 ∧
      (quietPorts 0x5).op = 0x5 ∧ (quietPorts 0x6).op = 0x6 ∧ (quietPorts 0x7).op = 0x7 ∧
      (quietPorts 0x0).op = 0x0 ∧ 0x8 ≤ (quietPorts 0x8).op ∧ 0x8 ≤ (quietPorts 0xF).op := by decide

theorem witness_HdecUnpacksOrRefuses :
    hasSignature headerHdec4 ∧ ¬ hasSignature #v[0x4E, 0x45, 0x53, 0, 1, 1, 1, 0, 0, 0, 0, 0, 0, 0, 0, 0] := by
  unfold hasSignature
  decide

theorem witness_ControlByteOneLayout :
    (255 : Nat) ≤ 255 ∧ hasSignature #v[0x4E, 0x45, 0x53, 0x1A, 2, 1, 0x11, 0x20, 0, 0, 0, 0, 0, 0, 0, 0] ∧
      hasSignature #v[0x4E, 0x45, 0x53, 0x1A, 2, 1, 0x14, 0x20, 0, 0, 0, 0, 0, 0, 0, 0] := by
  unfold hasSignature
  decide

theorem witness_HdecIgnoresByteSevenLowNibble :
    let hdr' : Header := #v[0x4E, 0x45, 0x53, 0x1A, 0x02, 0x01, 0x15, 0x20, 1, 2, 3, 4, 5, 6, 7, 8]
    (∀ k : Fin 16, k ≠ 7 → headerHdec4[k] = hdr'[k]) ∧
      headerHdec4[7].extractLsb' 4 4 = hdr'[7].extractLsb' 4 4 ∧ headerHdec4[7] ≠ hdr'[7] := by decide

/-- The counts at both ends of their range. -/
theorem witness_DecodeOfEncodeIsIdentity : (255 : Nat) ≤ 255 ∧ (0 : Nat) ≤ 255 := by decide

theorem witness_EncodeOfDecodeOnlyOnStrictHeaders :
    hasSignature headerHdec4 ∧ hasSignature #v[0x4E, 0x45, 0x53, 0x1A, 2, 1, 0x15, 0x20, 0, 0, 0, 0, 0, 0, 0, 0] := by
  unfold hasSignature
  decide

/-- A zero and a least positive bank size: the two clauses of B2BK and of PADL. -/
theorem witness_B2bkIsCeilingDivision : (0 : Nat) = 0 ∧ (0 : Nat) < 1 := by decide

theorem witness_PadlIsLeastMultiple : (0 : Nat) = 0 ∧ (0 : Nat) < 16384 := by decide

theorem witness_Isp2RecognisesPowersOfTwo :
    (Instr.isp2 (2 ^ 31)).wf State.reset.cfg.lenw = true ∧ (Instr.isp2 (2 ^ 32 - 1)).wf State.reset.cfg.lenw = true := by
  decide

theorem witness_Bk2bIsFullProduct : (Instr.bk2b (2 ^ 32 - 1) (2 ^ 32 - 1)).wf State.reset.cfg.lenw = true := by decide

theorem witness_PadlAgreesWithB2bk : (0 : Nat) < 3 := by decide

/-- `PADL 10, 3` gives 12, which fits the port. -/
theorem witness_PaddingIsIdempotent :
    (0 : Nat) < 3 ∧ (Instr.padl 10 3).wf State.reset.cfg.lenw = true ∧ 12 < 2 ^ State.reset.cfg.lenw := by decide

theorem witness_PaddingAndBankCountBounds : (0 : Nat) < 3 ∧ (0 : Nat) < 10 := by decide

theorem witness_Bk2bInvertsB2bkOnMultiples : (0 : Nat) < 8192 := by decide

/-- The lengths on both sides of the two boundaries of R76. -/
theorem witness_DerivedCountsEncodeOrAreRefused :
    (255 : Nat) ≤ 255 ∧ 4177920 < 4177921 ∧ 4177921 ≤ 4177921 ∧ 2088960 < 2088961 ∧ 2088961 ≤ 2088961 := by decide

theorem witness_NoResultOverflowsItsPort :
    23 ≤ State.reset.cfg.lenw ∧ 4294967295 < 2 ^ State.reset.cfg.lenw ∧ 0 < 4294967295 := by decide

/-- A good run with a request to make, from which a step reaches a next state. -/
theorem witness_StepKeepsGoodRun :
    GoodRun (withRequest (encode (.bk2b 5 7))) ∧
      step (withRequest (encode (.bk2b 5 7))) =
        .next { State.reset with trace := [⟨.op (.bk2b 5 7), valid (.bytes 35)⟩] } :=
  ⟨⟨rfl, fun _ h => (nomatch h), fun _ h => (nomatch h), fun _ h => (nomatch h)⟩, rfl⟩

theorem witness_RunAnswersEachRequestInOrder :
    ∀ p ∈ ({ State.reset with pending := [encode (.isp2 4), quietPorts 0x0] } : State).pending,
      p.presentable State.reset.cfg.lenw = true := by decide

end Sys2Proof.Tests
end

section
/-! What HENC and HDEC record when they succeed, and the bits of control byte 1 (R26). -/

namespace Sys2Proof.Machine

/-- HENC of counts in range completes with the packed header (R55). -/
theorem exec_henc_inRange {prg chr : Nat} (hp : prg ≤ 255) (hc : chr ≤ 255) (v b t f : Bool) (m : Byte) (s : State) :
    exec (.henc prg chr v b t f m) s =
      .next (answered s (.henc prg chr v b t f m) (valid (.header (packHeader prg chr v b t f m)))) := by
  rw [exec_eq, answerOf, hencAnswer_inRange hp hc, responseOf, okResponse_eq_valid, record_op_eq_answered]

/-- HDEC of a header with the signature completes with its unpacked fields (R56). -/
theorem exec_hdec_signed {hdr : Header} (h : hasSignature hdr) (s : State) :
    exec (.hdec hdr) s = .next (answered s (.hdec hdr) (valid (.fields (unpackHeader hdr)))) := by
  rw [exec_eq, answerOf, hdecAnswer_signed h, responseOf, okResponse_eq_valid, record_op_eq_answered]

@[simp] theorem packHeader_getElem_six (prg chr : Nat) (v b t f : Bool) (m : Byte) :
    (packHeader prg chr v b t f m)[6] = controlByte1 v b t f m := rfl

/-- Bits 7:4 of control byte 1 hold the low nibble of the mapper number. -/
theorem controlByte1_highNibble (v b t f : Bool) (m : Byte) :
    (controlByte1 v b t f m).extractLsb' 4 4 = m.extractLsb' 0 4 := by
  rw [controlByte1_eq_append]
  calc (m.extractLsb' 0 4 ++ BitVec.ofBool f ++ BitVec.ofBool t ++ BitVec.ofBool b ++ BitVec.ofBool v).extractLsb' 4 4
    _ = (m.extractLsb' 0 4 ++ BitVec.ofBool f).extractLsb' 1 4 := by
      simp only [BitVec.extractLsb'_append_eq_of_le, Nat.reduceLeDiff, Nat.reduceSub]
    _ = m.extractLsb' 0 4 := BitVec.extractLsb'_append_eq_left

@[simp] theorem fourScreenFlag_controlByte1 (v b t f : Bool) (m : Byte) : fourScreenFlag (controlByte1 v b t f m) = f := by
  simp only [fourScreenFlag, controlByte1_eq_append, BitVec.getLsbD_append]
  simp

@[simp] theorem trainerFlag_controlByte1 (v b t f : Bool) (m : Byte) : trainerFlag (controlByte1 v b t f m) = t := by
  simp only [trainerFlag, controlByte1_eq_append, BitVec.getLsbD_append]
  simp

@[simp] theorem batteryFlag_controlByte1 (v b t f : Bool) (m : Byte) : batteryFlag (controlByte1 v b t f m) = b := by
  simp only [batteryFlag, controlByte1_eq_append, BitVec.getLsbD_append]
  simp

@[simp] theorem mirroringFlag_controlByte1 (v b t f : Bool) (m : Byte) : mirroringFlag (controlByte1 v b t f m) = v := by
  simp only [mirroringFlag, controlByte1_eq_append, BitVec.getLsbD_append]
  simp

/-- The fields HDEC reads from byte 6 when it is 0x11: mapper nibble 1, vertical mirroring, no trainer (R26). -/
theorem unpackHeader_of_six_eq_0x11 {hdr : Header} (h : hdr[6] = 0x11) :
    (unpackHeader hdr).mapperLowNibble = 1 ∧ (unpackHeader hdr).mirroringVertical = true ∧
      (unpackHeader hdr).hasTrainer = false := by
  simp only [unpackHeader, h]
  decide

/-- The fields HDEC reads from byte 6 when it is 0x14: mapper nibble 1 and a trainer (R26). -/
theorem unpackHeader_of_six_eq_0x14 {hdr : Header} (h : hdr[6] = 0x14) :
    (unpackHeader hdr).mapperLowNibble = 1 ∧ (unpackHeader hdr).hasTrainer = true := by
  simp only [unpackHeader, h]
  decide

/-- Settles O18: HENC packs byte 6 as `controlByte1`, whose bits are the operands, and HDEC reads its fields from the
bits of byte 6. -/
theorem controlByteOneLayout : Obligations.ControlByteOneLayout := by
  unfold Obligations.ControlByteOneLayout
  constructor
  · intro prg chr v b t f m s hp hc
    refine ⟨packHeader prg chr v b t f m, exec_henc_inRange hp hc v b t f m s, ?_⟩
    rw [packHeader_getElem_six]
    exact ⟨controlByte1_highNibble v b t f m, fourScreenFlag_controlByte1 v b t f m, trainerFlag_controlByte1 v b t f m,
      batteryFlag_controlByte1 v b t f m, mirroringFlag_controlByte1 v b t f m, controlByte1_toNat v b t f m⟩
  · intro hdr s hsig
    exact ⟨unpackHeader hdr, exec_hdec_signed hsig s, mapperLow_eq_extract hdr[6], rfl, rfl, rfl, rfl,
      unpackHeader_of_six_eq_0x11, unpackHeader_of_six_eq_0x14⟩

end Sys2Proof.Machine
end

section
/-! The bank counts B2BK derives, handed to HENC (R76), and the zero bank size (R65). -/

namespace Sys2Proof.Machine

/-- An operation whose answer is a result completes with that result (R11, R44). -/
theorem exec_of_answer_ok {i : Instr} {r : Result} (s : State) (h : answerOf i = .ok r) :
    exec i s = .next (answered s i (valid r)) := by
  rw [exec_eq, h, responseOf, okResponse_eq_valid, record_op_eq_answered]

/-- An operation whose answer is an exception completes with the exception's error ports (R46, R85). -/
theorem exec_of_answer_error {i : Instr} {e : Exn} (s : State) (h : answerOf i = .error e) :
    exec i s = .next (answered s i (errorResponse e)) := by
  rw [exec_eq, h, responseOf, record_op_eq_answered]

/-- B2BK of a nonzero bank size completes with the rounded-up quotient (R66). -/
theorem exec_b2bk_pos {b : Nat} (hb : 0 < b) (n : Nat) (s : State) :
    exec (.b2bk n b) s = .next (answered s (.b2bk n b) (valid (.banks (ceilDiv n b)))) := by
  apply exec_of_answer_ok
  exact withBankSize_pos hb _

/-- B2BK refuses a zero bank size (R65). -/
theorem exec_b2bk_zero (n : Nat) (s : State) :
    exec (.b2bk n 0) s = .next (answered s (.b2bk n 0) (errorResponse (.badArg 0))) := by
  apply exec_of_answer_error
  exact withBankSize_zero _

/-- PADL refuses a zero bank size (R65). -/
theorem exec_padl_zero (n : Nat) (s : State) :
    exec (.padl n 0) s = .next (answered s (.padl n 0) (errorResponse (.badArg 0))) := by
  apply exec_of_answer_error
  exact withBankSize_zero _

/-- BK2B completes with the full product, whatever the bank size (R65, R69). -/
theorem exec_bk2b (k b : Nat) (s : State) :
    exec (.bk2b k b) s = .next (answered s (.bk2b k b) (valid (.bytes (k * b)))) := by
  apply exec_of_answer_ok
  rw [answerOf, banksToBytes]

/-- HENC refuses a program count above 255, whatever the graphics count (R55, R87). -/
theorem exec_henc_prg_above {prg : Nat} (hp : 255 < prg) (chr : Nat) (v b t f : Bool) (m : Byte) (s : State) :
    exec (.henc prg chr v b t f m) s =
      .next (answered s (.henc prg chr v b t f m) (errorResponse (.rangeError .prgBanks prg))) := by
  apply exec_of_answer_error
  exact hencAnswer_prg hp chr v b t f m

/-- HENC refuses a graphics count above 255 when the program count is in range (R55, R87). -/
theorem exec_henc_chr_above {prg chr : Nat} (hp : prg ≤ 255) (hc : 255 < chr) (v b t f : Bool) (m : Byte) (s : State) :
    exec (.henc prg chr v b t f m) s =
      .next (answered s (.henc prg chr v b t f m) (errorResponse (.rangeError .chrBanks chr))) := by
  apply exec_of_answer_error
  exact hencAnswer_chr hp hc v b t f m

/-- Byte 4 of the header HENC packs holds a program count in range whole (R25, R55). -/
theorem packHeader_four_toNat {prg : Nat} (hp : prg ≤ 255) (chr : Nat) (v b t f : Bool) (m : Byte) :
    (packHeader prg chr v b t f m)[4].toNat = prg :=
  countByte_toNat hp

/-- Byte 5 of the header HENC packs holds a graphics count in range whole (R25, R55). -/
theorem packHeader_five_toNat {chr : Nat} (hc : chr ≤ 255) (prg : Nat) (v b t f : Bool) (m : Byte) :
    (packHeader prg chr v b t f m)[5].toNat = chr :=
  countByte_toNat hc

/-- The last length whose program count fits the header is 255 banks of 16384 bytes (R76). -/
theorem ceilDiv_prgBank_le_255_iff (len : Nat) : ceilDiv len 16384 ≤ 255 ↔ len < 4177921 := by
  rw [ceilDiv_le_iff (by decide)]
  omega

/-- The last length whose graphics count fits the header is 255 banks of 8192 bytes (R76). -/
theorem ceilDiv_chrBank_le_255_iff (len : Nat) : ceilDiv len 8192 ≤ 255 ↔ len < 2088961 := by
  rw [ceilDiv_le_iff (by decide)]
  omega

/-- Settles O38: the derived count is the rounded-up quotient, which is at most 255 exactly below the stated length;
HENC writes such a count whole and refuses any other. -/
theorem derivedCountsEncodeOrAreRefused : Obligations.DerivedCountsEncodeOrAreRefused := by
  unfold Obligations.DerivedCountsEncodeOrAreRefused
  intro len other v b t f m s s' hother
  constructor
  · have hfit := ceilDiv_prgBank_le_255_iff len
    refine ⟨ceilDiv len 16384, exec_b2bk_pos (by decide) len s, fun hlen => ?_, fun hlen => ?_⟩
    · have hk := hfit.mpr hlen
      exact ⟨_, exec_henc_inRange hk hother v b t f m s', packHeader_four_toNat hk other v b t f m⟩
    · have hk : 255 < ceilDiv len 16384 := by omega
      exact exec_henc_prg_above hk other v b t f m s'
  · have hfit := ceilDiv_chrBank_le_255_iff len
    refine ⟨ceilDiv len 8192, exec_b2bk_pos (by decide) len s, fun hlen => ?_, fun hlen => ?_⟩
    · have hk := hfit.mpr hlen
      exact ⟨_, exec_henc_inRange hother hk v b t f m s', packHeader_five_toNat hk other v b t f m⟩
    · have hk : 255 < ceilDiv len 8192 := by omega
      exact exec_henc_chr_above hother hk v b t f m s'

/-- Settles O25: B2BK and PADL share the check of the bank size, which refuses 0 whatever the length, and BK2B, which
has no such check, multiplies by 0. -/
theorem zeroBankSizeIsBadArg : Obligations.ZeroBankSizeIsBadArg := by
  unfold Obligations.ZeroBankSizeIsBadArg
  intro n s
  exact ⟨exec_b2bk_zero n s, exec_padl_zero n s, exec_bk2b n 0 s⟩

end Sys2Proof.Machine
end

section
/-! HENC and HDEC port by port (R55, R56), and HDEC of the header HENC writes (R57, R58). -/

namespace Sys2Proof.Machine

/-- The sixteen bytes HENC writes, the control bytes as concatenations of nibble and flags (R55). -/
theorem packHeader_eq_append (prg chr : Nat) (v b t f : Bool) (m : Byte) :
    packHeader prg chr v b t f m =
      #v[0x4E, 0x45, 0x53, 0x1A, BitVec.ofNat 8 prg, BitVec.ofNat 8 chr,
        m.extractLsb' 0 4 ++ BitVec.ofBool f ++ BitVec.ofBool t ++ BitVec.ofBool b ++ BitVec.ofBool v,
        m.extractLsb' 4 4 ++ 0#4, 0, 0, 0, 0, 0, 0, 0, 0] := by
  rw [packHeader_eq, controlByte1_eq_append, controlByte2_eq_append, countByte, countByte]

/-- Settles O14: HENC checks the program count, then the graphics count, and packs the header when both are in range. -/
theorem hencPacksOrRefuses : Obligations.HencPacksOrRefuses := by
  unfold Obligations.HencPacksOrRefuses
  intro prg chr v b t f m s
  split_ifs with hprg hchr
  · exact exec_henc_prg_above hprg chr v b t f m s
  · exact exec_henc_chr_above (not_lt.mp hprg) hchr v b t f m s
  · rw [exec_henc_inRange (not_lt.mp hprg) (not_lt.mp hchr), packHeader_eq_append]

/-- The fields of a header with the signature: each mapper nibble is bits 7:4 of its control byte, and the mapper
number joins the two (R56). -/
theorem unpackHeader_of_hasSignature {hdr : Header} (h : hasSignature hdr) :
    unpackHeader hdr =
      { magic := #v[0x4E, 0x45, 0x53, 0x1A], prgBanks := hdr[4], chrBanks := hdr[5],
        mirroringVertical := hdr[6].getLsbD 0, hasBattery := hdr[6].getLsbD 1, hasTrainer := hdr[6].getLsbD 2,
        fourScreenVram := hdr[6].getLsbD 3, mapperLowNibble := hdr[6].extractLsb' 4 4,
        mapperHighNibble := hdr[7].extractLsb' 4 4,
        mapperNumber := hdr[7].extractLsb' 4 4 ++ hdr[6].extractLsb' 4 4,
        reserved := #v[hdr[8], hdr[9], hdr[10], hdr[11], hdr[12], hdr[13], hdr[14], hdr[15]] } := by
  rw [unpackHeader, (signatureBytes_eq_iff hdr).mpr h, mapperLow_eq_extract, mapperHigh_eq_extract, mapperOf_eq_append]
  rfl

/-- HDEC of a header without the signature completes with the four bytes received (R56, R81). -/
theorem exec_hdec_unsigned {hdr : Header} (h : ¬ hasSignature hdr) (s : State) :
    exec (.hdec hdr) s = .next (answered s (.hdec hdr) (errorResponse (.formatError (signatureBytes hdr)))) := by
  apply exec_of_answer_error
  exact hdecAnswer_unsigned h

/-- Settles O16: with the signature HDEC unpacks the header field by field, without it HDEC raises FORMAT_ERROR. -/
theorem hdecUnpacksOrRefuses : Obligations.HdecUnpacksOrRefuses := by
  unfold Obligations.HdecUnpacksOrRefuses
  intro hdr s
  constructor
  · intro hsig
    rw [exec_hdec_signed hsig, unpackHeader_of_hasSignature hsig]
  · intro hsig
    exact exec_hdec_unsigned hsig s

/-- HENC writes the signature (R25, R55). -/
theorem hasSignature_packHeader (prg chr : Nat) (v b t f : Bool) (m : Byte) :
    hasSignature (packHeader prg chr v b t f m) := ⟨rfl, rfl, rfl, rfl⟩

/-- Bits 7:4 of control byte 2 hold the high nibble of the mapper number (R27). -/
theorem controlByte2_highNibble (m : Byte) : (controlByte2 m).extractLsb' 4 4 = m.extractLsb' 4 4 := by
  rw [controlByte2_eq_append]
  exact BitVec.extractLsb'_append_eq_left

/-- A byte is its two nibbles joined (R27). -/
theorem highNibble_append_lowNibble (m : Byte) : m.extractLsb' 4 4 ++ m.extractLsb' 0 4 = m :=
  (BitVec.extractLsb'_append_extractLsb'_eq_extractLsb' (start₂ := 4) (start₁ := 0) (len₁ := 4) rfl).trans
    BitVec.extractLsb'_eq_self

/-- HDEC reads the whole mapper number back from the two control bytes HENC writes (R57, R58). -/
theorem mapperOf_controlBytes (v b t f : Bool) (m : Byte) : mapperOf (controlByte1 v b t f m) (controlByte2 m) = m := by
  rw [mapperOf_eq_append, controlByte1_highNibble, controlByte2_highNibble, highNibble_append_lowNibble]

/-- Unpacking a packed header gives the operands back, the counts as their bytes (R57, R58). -/
theorem unpackHeader_packHeader (prg chr : Nat) (v b t f : Bool) (m : Byte) :
    unpackHeader (packHeader prg chr v b t f m) =
      { magic := signature, prgBanks := countByte prg, chrBanks := countByte chr, mirroringVertical := v,
        hasBattery := b, hasTrainer := t, fourScreenVram := f, mapperLowNibble := m.extractLsb' 0 4,
        mapperHighNibble := m.extractLsb' 4 4, mapperNumber := m, reserved := Vector.replicate 8 0 } := by
  have hseven : (packHeader prg chr v b t f m)[7] = controlByte2 m := rfl
  simp only [unpackHeader, packHeader_getElem_six, hseven, mirroringFlag_controlByte1, batteryFlag_controlByte1,
    trainerFlag_controlByte1, fourScreenFlag_controlByte1, mapperLow_eq_extract, mapperHigh_eq_extract,
    controlByte1_highNibble, controlByte2_highNibble, mapperOf_controlBytes]
  rfl

/-- Settles O20: HENC of counts in range packs a header with the signature, and unpacking it gives the operands back. -/
theorem decodeOfEncodeIsIdentity : Obligations.DecodeOfEncodeIsIdentity := by
  unfold Obligations.DecodeOfEncodeIsIdentity
  intro prg chr v b t f m s s' hprg hchr
  refine ⟨packHeader prg chr v b t f m, _, exec_henc_inRange hprg hchr v b t f m s,
    exec_hdec_signed (hasSignature_packHeader prg chr v b t f m) s', ?_⟩
  rw [unpackHeader_packHeader]
  exact ⟨countByte_toNat hprg, countByte_toNat hchr, rfl, rfl, rfl, rfl, rfl, rfl, rfl, rfl, rfl⟩

end Sys2Proof.Machine
end

section
/-! The Bank Sizer operation by operation: quotient, padded length, power-of-two test, product and region table (R66 to
R70, R72, R78). -/

namespace Sys2Proof.Machine

/-- PADL of a nonzero bank size completes with the padded length (R67). -/
theorem exec_padl_pos {b : Nat} (hb : 0 < b) (n : Nat) (s : State) :
    exec (.padl n b) s = .next (answered s (.padl n b) (valid (.paddedLength (paddedTo n b)))) := by
  apply exec_of_answer_ok
  exact withBankSize_pos hb _

/-- ISP2 completes with the power-of-two test (R68). -/
theorem exec_isp2 (n : Nat) (s : State) :
    exec (.isp2 n) s = .next (answered s (.isp2 n) (valid (.isPow2 (isPowerOfTwo n)))) := by
  apply exec_of_answer_ok
  rw [answerOf]

/-- RLAY completes with the region table (R70). -/
theorem exec_rlay (t : Bool) (prg chr : Byte) (s : State) :
    exec (.rlay t prg chr) s = .next (answered s (.rlay t prg chr) (valid (.layout (regionLayout t prg chr)))) := by
  apply exec_of_answer_ok
  rw [answerOf]

/-- No multiple of the bank size that holds the length is shorter than the padded length (R67). -/
theorem paddedTo_le_of_dvd {n b p : Nat} (hb : 0 < b) (hdvd : b ∣ p) (hn : n ≤ p) : paddedTo n b ≤ p := by
  obtain ⟨k, rfl⟩ := hdvd
  rw [mul_comm b k] at hn ⊢
  exact Nat.mul_le_mul_right b ((ceilDiv_le_iff hb k).mpr hn)

/-- A padded length is a whole number of banks, so padding leaves it as it is (R72). -/
theorem paddedTo_paddedTo {b : Nat} (hb : 0 < b) (n : Nat) : paddedTo (paddedTo n b) b = paddedTo n b := by
  unfold paddedTo
  rw [ceilDiv_mul hb]

/-- Both operands of a presentable PADL fit their ports (R43). -/
theorem wf_padl_iff (lenw n b : Nat) : (Instr.padl n b).wf lenw = true ↔ n < 2 ^ lenw ∧ b < 2 ^ lenw := by
  simp [Instr.wf, fitsPort]

/-- Both operands of a presentable BK2B fit their ports (R43). -/
theorem wf_bk2b_iff (lenw k b : Nat) : (Instr.bk2b k b).wf lenw = true ↔ k < 2 ^ lenw ∧ b < 2 ^ lenw := by
  simp [Instr.wf, fitsPort]

/-- The test of ISP2 as one decided proposition (R78). -/
theorem isPowerOfTwo_eq_decide (n : Nat) : isPowerOfTwo n = decide (n > 0 ∧ n &&& (n - 1) = 0) := by
  rw [isPowerOfTwo, beq_eq_decide, Bool.decide_and]

/-- The product of two numbers below `2^w` fits `2*w` bits (R69). -/
theorem mul_lt_two_pow_double {w k b : Nat} (hk : k < 2 ^ w) (hb : b < 2 ^ w) : k * b < 2 ^ (2 * w) := by
  rw [two_mul, pow_add]
  exact Nat.mul_lt_mul'' hk hb

/-- Settles O26: `ceilDiv_le_iff` at the quotient says that it holds the bytes, and at any other count that holds them
that the quotient is no greater. -/
theorem b2bkIsCeilingDivision : Obligations.B2bkIsCeilingDivision := by
  unfold Obligations.B2bkIsCeilingDivision
  intro n b s
  constructor
  · rintro rfl
    exact exec_b2bk_zero n s
  · intro hb
    exact ⟨ceilDiv n b, exec_b2bk_pos hb n s, (ceilDiv_le_iff hb _).mp le_rfl, fun k' => (ceilDiv_le_iff hb k').mpr, rfl⟩

/-- Settles O27: the padded length is a multiple that holds the length, and by `paddedTo_le_of_dvd` the least one. -/
theorem padlIsLeastMultiple : Obligations.PadlIsLeastMultiple := by
  unfold Obligations.PadlIsLeastMultiple
  intro n b s
  constructor
  · rintro rfl
    exact exec_padl_zero n s
  · intro hb
    exact ⟨paddedTo n b, exec_padl_pos hb n s, dvd_paddedTo n b, le_paddedTo hb, fun p' => paddedTo_le_of_dvd hb⟩

/-- Settles O34: the second PADL pads a multiple of the bank size. -/
theorem paddingIsIdempotent : Obligations.PaddingIsIdempotent := by
  unfold Obligations.PaddingIsIdempotent
  intro n b s s' hb hwf
  obtain ⟨-, hbfit⟩ := (wf_padl_iff _ n b).mp hwf
  refine ⟨paddedTo n b, exec_padl_pos hb n s, fun hpfit => ⟨(wf_padl_iff _ _ b).mpr ⟨hpfit, hbfit⟩, ?_⟩⟩
  rw [exec_padl_pos hb, paddedTo_paddedTo hb]

/-- Settles O28: ISP2 answers the identity, whose first conjunct alone refuses 0, since `0 & x = 0`. -/
theorem isp2IsTheIdentity : Obligations.Isp2IsTheIdentity := by
  unfold Obligations.Isp2IsTheIdentity
  refine ⟨fun n s => ?_, fun w => BitVec.zero_and, fun s => exec_isp2 0 s⟩
  rw [exec_isp2, isPowerOfTwo_eq_decide]

/-- Settles O30: BK2B answers the product of naturals, which commutes. -/
theorem bk2bIsFullProduct : Obligations.Bk2bIsFullProduct := by
  unfold Obligations.Bk2bIsFullProduct
  intro k b s
  refine ⟨exec_bk2b k b s, fun hwf => ?_, ?_⟩
  · obtain ⟨hk, hb⟩ := (wf_bk2b_iff _ k b).mp hwf
    exact mul_lt_two_pow_double hk hb
  · rw [exec_bk2b, mul_comm]

/-- Settles O31: the region table with the block's constants written out. -/
theorem rlayIsTheRegionTable : Obligations.RlayIsTheRegionTable := by
  unfold Obligations.RlayIsTheRegionTable
  intro t prg chr s
  exact exec_rlay t prg chr s

end Sys2Proof.Machine
end

section
/-! What a step answers to ports, and which exception comes from which cause (R80 to R85). -/

namespace Sys2Proof.Machine

/-- The answer to the ports of a request: the named operation's own, or IllegalOp for a reserved code (R84). -/
def answerOfPorts (p : Ports) : Except Exn Result :=
  match mnemonicOf p.op with
  | some m => answerOf (operandsFrom p m)
  | none => .error (.illegalOp p.op)

theorem answerOfPorts_operation {p : Ports} {m : Mnemonic} (h : p.op = opCode m) :
    answerOfPorts p = answerOf (operandsFrom p m) := by
  simp [answerOfPorts, h]

theorem answerOfPorts_reserved {p : Ports} (h : mnemonicOf p.op = none) :
    answerOfPorts p = .error (.illegalOp p.op) := by
  simp [answerOfPorts, h]

/-- The transaction a step records carries the answer to the ports. -/
theorem transactionOf_response (p : Ports) : (transactionOf p).response = responseOf (answerOfPorts p) := by
  cases hm : mnemonicOf p.op with
  | none => rw [transactionOf_reserved hm, answerOfPorts_reserved hm, responseOf]
  | some m => rw [transactionOf_operation hm, answerOfPorts_operation (mnemonicOf_eq_some.mp hm)]

/-- The exceptions HENC raises: a count above 255, named with its value (R82). -/
theorem hencAnswer_error_cases {prg chr : Nat} {v b t f : Bool} {m : Byte} {e : Exn}
    (h : hencAnswer prg chr v b t f m = .error e) :
    (255 < prg ∧ e = .rangeError .prgBanks prg) ∨ (255 < chr ∧ e = .rangeError .chrBanks chr) := by
  rcases Nat.lt_or_ge 255 prg with hprg | hprg
  · rw [hencAnswer_prg hprg] at h
    exact .inl ⟨hprg, (Except.error.inj h).symm⟩
  rcases Nat.lt_or_ge 255 chr with hchr | hchr
  · rw [hencAnswer_chr hprg hchr] at h
    exact .inr ⟨hchr, (Except.error.inj h).symm⟩
  · rw [hencAnswer_inRange hprg hchr] at h
    cases h

/-- The exception HDEC raises: a wrong signature, with the four bytes received (R81). -/
theorem hdecAnswer_error_cases {hdr : Header} {e : Exn} (h : hdecAnswer hdr = .error e) :
    ¬ hasSignature hdr ∧ e = .formatError (signatureBytes hdr) := by
  by_cases hsig : hasSignature hdr
  · rw [hdecAnswer_signed hsig] at h
    cases h
  · rw [hdecAnswer_unsigned hsig] at h
    exact ⟨hsig, (Except.error.inj h).symm⟩

/-- The exception B2BK and PADL raise: the bank size refused (R83). -/
theorem withBankSize_error_cases {b : Nat} {r : Result} {e : Exn} (h : withBankSize b r = .error e) :
    b = 0 ∧ e = .badArg b := by
  rcases Nat.eq_zero_or_pos b with rfl | hb
  · rw [withBankSize_zero] at h
    exact ⟨rfl, (Except.error.inj h).symm⟩
  · rw [withBankSize_pos hb] at h
    cases h

/-- Every exception a step can raise, each with its cause: the complete list of R80. -/
theorem answerOfPorts_error_cases {p : Ports} {e : Exn} (h : answerOfPorts p = .error e) :
    (p.op = 0x1 ∧ 255 < p.e.prgBanks ∧ e = .rangeError .prgBanks p.e.prgBanks) ∨
    (p.op = 0x1 ∧ 255 < p.e.chrBanks ∧ e = .rangeError .chrBanks p.e.chrBanks) ∨
    (p.op = 0x2 ∧ ¬ hasSignature p.d.hdr ∧ e = .formatError (signatureBytes p.d.hdr)) ∨
    ((p.op = 0x3 ∨ p.op = 0x4) ∧ p.s2.bankSize = 0 ∧ e = .badArg p.s2.bankSize) ∨
    ((p.op = 0x0 ∨ 0x8 ≤ p.op) ∧ e = .illegalOp p.op) := by
  cases hm : mnemonicOf p.op with
  | none =>
    rw [answerOfPorts_reserved hm] at h
    exact .inr (.inr (.inr (.inr ⟨mnemonicOf_eq_none.mp hm, (Except.error.inj h).symm⟩)))
  | some m =>
    have hop := mnemonicOf_eq_some.mp hm
    rw [answerOfPorts_operation hop] at h
    cases m with
    | henc =>
      rcases hencAnswer_error_cases h with hprg | hchr
      · exact .inl ⟨hop, hprg⟩
      · exact .inr (.inl ⟨hop, hchr⟩)
    | hdec => exact .inr (.inr (.inl ⟨hop, hdecAnswer_error_cases h⟩))
    | b2bk => exact .inr (.inr (.inr (.inl ⟨.inl hop, withBankSize_error_cases h⟩)))
    | padl => exact .inr (.inr (.inr (.inl ⟨.inr hop, withBankSize_error_cases h⟩)))
    | isp2 => cases h
    | bk2b => cases h
    | rlay => cases h

/-- A response with the status RANGE_ERROR comes from a RangeError (R45, R80). -/
theorem responseOf_status_rangeError_iff {answer : Except Exn Result} :
    (responseOf answer).status = .rangeError ↔ ∃ field count, answer = .error (.rangeError field count) := by
  rcases answer with (_ | _ | _ | _) | _ <;> simp [responseOf, okResponse, errorResponse]

/-- A response with the status FORMAT_ERROR comes from a FormatError (R45, R80). -/
theorem responseOf_status_formatError_iff {answer : Except Exn Result} :
    (responseOf answer).status = .formatError ↔ ∃ received, answer = .error (.formatError received) := by
  rcases answer with (_ | _ | _ | _) | _ <;> simp [responseOf, okResponse, errorResponse]

/-- A RangeError is raised by HENC alone, and names a count above 255 (R82). -/
theorem answerOfPorts_rangeError {p : Ports} {field : CountField} {count : Nat}
    (h : answerOfPorts p = .error (.rangeError field count)) :
    p.op = 0x1 ∧ 255 < count ∧
      ((field = .prgBanks ∧ count = p.e.prgBanks) ∨ (field = .chrBanks ∧ count = p.e.chrBanks)) := by
  obtain ⟨hop, hprg, he⟩ | ⟨hop, hchr, he⟩ | ⟨-, -, he⟩ | ⟨-, -, he⟩ | ⟨-, he⟩ :=
    answerOfPorts_error_cases h <;> cases he
  · exact ⟨hop, hprg, .inl ⟨rfl, rfl⟩⟩
  · exact ⟨hop, hchr, .inr ⟨rfl, rfl⟩⟩

/-- HENC raises a RangeError whenever a count is above 255 (R82, R87). -/
theorem answerOfPorts_of_count_above {p : Ports} (hop : p.op = 0x1) (h : 255 < p.e.prgBanks ∨ 255 < p.e.chrBanks) :
    ∃ field count, answerOfPorts p = .error (.rangeError field count) := by
  rw [answerOfPorts_operation (m := .henc) hop]
  rcases Nat.lt_or_ge 255 p.e.prgBanks with hprg | hprg
  · exact ⟨_, _, hencAnswer_prg hprg ..⟩
  · exact ⟨_, _, hencAnswer_chr hprg (h.resolve_left hprg.not_gt) ..⟩

/-- Settles O15: a step's RANGE_ERROR is HENC's RangeError for a count above 255, and HENC raises it for every such
count. -/
theorem rangeErrorOnlyFromHenc : Obligations.RangeErrorOnlyFromHenc := by
  unfold Obligations.RangeErrorOnlyFromHenc
  intro s p rest hpending hpresentable
  refine ⟨transactionOf p, step_presentable hpending hpresentable, ?_⟩
  rw [transactionOf_response, responseOf_status_rangeError_iff]
  refine ⟨⟨?_, fun ⟨hop, habove⟩ => answerOfPorts_of_count_above hop habove⟩, ?_⟩
  · rintro ⟨field, count, hanswer⟩
    obtain ⟨hop, habove, ⟨-, rfl⟩ | ⟨-, rfl⟩⟩ := answerOfPorts_rangeError hanswer
    · exact ⟨hop, .inl habove⟩
    · exact ⟨hop, .inr habove⟩
  · rintro ⟨field, count, hanswer⟩
    obtain ⟨-, habove, ⟨rfl, rfl⟩ | ⟨rfl, rfl⟩⟩ := answerOfPorts_rangeError hanswer <;> rw [hanswer]
    · exact ⟨rfl, .inl ⟨rfl, rfl, habove⟩⟩
    · exact ⟨rfl, .inr ⟨rfl, rfl, habove⟩⟩

/-- A FormatError is raised by HDEC alone, exactly for a wrong signature, and carries the four bytes received (R81). -/
theorem answerOfPorts_formatError_iff {p : Ports} {received : Vector Byte 4} :
    answerOfPorts p = .error (.formatError received) ↔
      (p.op = 0x2 ∧ ¬ hasSignature p.d.hdr) ∧ received = signatureBytes p.d.hdr := by
  constructor
  · intro h
    obtain ⟨-, -, he⟩ | ⟨-, -, he⟩ | ⟨hop, hsig, he⟩ | ⟨-, -, he⟩ | ⟨-, he⟩ :=
      answerOfPorts_error_cases h <;> cases he
    exact ⟨⟨hop, hsig⟩, rfl⟩
  · rintro ⟨⟨hop, hsig⟩, rfl⟩
    rw [answerOfPorts_operation (m := .hdec) hop]
    exact hdecAnswer_unsigned hsig

/-- Settles O17: a step's FORMAT_ERROR is HDEC's FormatError, which is raised exactly for a wrong signature. -/
theorem formatErrorOnlyFromHdec : Obligations.FormatErrorOnlyFromHdec := by
  unfold Obligations.FormatErrorOnlyFromHdec
  intro s p rest hpending hpresentable
  refine ⟨transactionOf p, step_presentable hpending hpresentable, ?_⟩
  rw [transactionOf_response, responseOf_status_formatError_iff]
  constructor
  · simp only [answerOfPorts_formatError_iff, exists_and_left, exists_eq, and_true]
  · rintro ⟨received, hanswer⟩
    obtain ⟨-, rfl⟩ := answerOfPorts_formatError_iff.mp hanswer
    rw [hanswer]
    exact ⟨rfl, rfl, rfl⟩

end Sys2Proof.Machine
end

section
/-! The written tuple of port words: reading it back and writing it undo each other, and it fits its ports exactly when
the request is well formed (R43, R53). -/

namespace Sys2Proof

/-- The numbers `vs` fit ports of the widths `ws`, one for one. -/
def ValuesFit (ws vs : List Nat) : Prop := List.Forall₂ (fun w v => v < 2 ^ w) ws vs

theorem valuesFit_nil {vs : List Nat} : ValuesFit [] vs ↔ vs = [] := List.forall₂_nil_left_iff

theorem valuesFit_cons {w : Nat} {ws vs : List Nat} :
    ValuesFit (w :: ws) vs ↔ ∃ v vs', v < 2 ^ w ∧ ValuesFit ws vs' ∧ vs = v :: vs' := List.forall₂_cons_left_iff

theorem valuesFit_replicate {n w : Nat} {vs : List Nat} :
    ValuesFit (List.replicate n w) vs ↔ vs.length = n ∧ ∀ v ∈ vs, v < 2 ^ w := by
  induction n generalizing vs with
  | zero => simp +contextual [valuesFit_nil]
  | succ n ih =>
    cases vs with
    | nil => simp [List.replicate_succ, valuesFit_cons]
    | cons v vs => simp [List.replicate_succ, valuesFit_cons, ih, and_left_comm]

/-- The words of a tuple fit exactly when each value fits its own width. -/
theorem valuesFit_words {os : List PortWord} :
    ValuesFit (os.map PortWord.width) (os.map PortWord.value) ↔ ∀ o ∈ os, o.value < 2 ^ o.width := by
  rw [ValuesFit, List.forall₂_map_left_iff, List.forall₂_map_right_iff, List.forall₂_same]

/-- The widths of the operand words of a request are its format's. -/
theorem width_zipWith_mk {ws vs : List Nat} (h : vs.length = ws.length) :
    (List.zipWith PortWord.mk ws vs).map PortWord.width = ws := by
  rw [List.map_zipWith, ← List.map_uncurry_zip_eq_zipWith]
  exact List.map_fst_zip h.ge

/-- The values of the words a request is written with. -/
theorem value_zipWith_mk {ws vs : List Nat} (h : vs.length = ws.length) :
    (List.zipWith PortWord.mk ws vs).map PortWord.value = vs := by
  rw [List.map_zipWith, ← List.map_uncurry_zip_eq_zipWith]
  exact List.map_snd_zip h.le

/-- A one-bit number is the bit it is read as (R9). -/
theorem beq_one_toNat {v : Nat} (h : v < 2 ^ 1) : (v == 1).toNat = v := by
  interval_cases v <;> rfl

/-- A byte is the number it is read from (R9). -/
theorem ofNat_byte_toNat {v : Nat} (h : v < 2 ^ 8) : (BitVec.ofNat 8 v).toNat = v := by
  rw [BitVec.toNat_ofNat, Nat.mod_eq_of_lt h]

theorem byte_toNat_lt (b : Byte) : b.toNat < 256 := b.isLt

/-- A request is well formed exactly when its operand values fit the ports of its format (R43). -/
theorem wf_iff_valuesFit (lenw : Nat) (i : Instr) :
    i.wf lenw = true ↔ ValuesFit (operandWidths lenw i.mnemonic) (operandValues i) := by
  cases i with
  | hdec hdr =>
    have hbytes : ValuesFit (List.replicate 16 8) (hdr.toList.map BitVec.toNat) :=
      valuesFit_replicate.mpr ⟨by simp, List.forall_mem_map.mpr fun b _ => b.isLt⟩
    exact iff_of_true rfl hbytes
  | _ =>
    simp [Instr.wf, fitsPort, Instr.mnemonic, operandWidths, operandValues, valuesFit_cons, valuesFit_nil,
      Bool.toNat_le, byte_toNat_lt]

/-- The operand values of a request are read as that request. -/
theorem operandsOfValues_operandValues (i : Instr) : operandsOfValues (operandValues i) i.mnemonic = i := by
  cases i with
  | hdec hdr =>
    simp only [operandsOfValues, operandValues, Instr.mnemonic, Instr.hdec.injEq]
    ext k hk
    simp
  | _ => simp [operandsOfValues, operandValues, Instr.mnemonic]

/-- Whatever the values, they are read as a request of the operation asked for. -/
@[simp] theorem operandsOfValues_mnemonic (vs : List Nat) (m : Mnemonic) : (operandsOfValues vs m).mnemonic = m := by
  cases m <;> rfl

/-- Values that fit the ports of a format are the operand values of the request they are read as. -/
theorem operandValues_operandsOfValues {lenw : Nat} {m : Mnemonic} {vs : List Nat}
    (h : ValuesFit (operandWidths lenw m) vs) : operandValues (operandsOfValues vs m) = vs := by
  cases m with
  | hdec =>
    obtain ⟨hlen, hfit⟩ := valuesFit_replicate.mp h
    apply List.ext_getElem
    · simp [operandValues, operandsOfValues, hlen]
    · intro k _ hk
      have hread : (BitVec.ofNat 8 vs[k]).toNat = vs[k] := ofNat_byte_toNat (hfit _ (List.getElem_mem hk))
      simpa [operandValues, operandsOfValues, hk] using hread
  | henc =>
    simp only [operandWidths, valuesFit_cons, valuesFit_nil] at h
    obtain ⟨prg, _, -, ⟨chr, _, -, ⟨v, _, hv, ⟨b, _, hb, ⟨t, _, ht, ⟨f, _, hf, ⟨m, _, hm, rfl, rfl⟩, rfl⟩, rfl⟩, rfl⟩,
      rfl⟩, rfl⟩, rfl⟩ := h
    simp only [operandsOfValues, operandValues, List.getD_cons_zero, List.getD_cons_succ, beq_one_toNat hv,
      beq_one_toNat hb, beq_one_toNat ht, beq_one_toNat hf, ofNat_byte_toNat hm]
  | rlay =>
    simp only [operandWidths, valuesFit_cons, valuesFit_nil] at h
    obtain ⟨t, _, ht, ⟨prg, _, hprg, ⟨chr, _, hchr, rfl, rfl⟩, rfl⟩, rfl⟩ := h
    simp only [operandsOfValues, operandValues, List.getD_cons_zero, List.getD_cons_succ, beq_one_toNat ht,
      ofNat_byte_toNat hprg, ofNat_byte_toNat hchr]
  | isp2 =>
    simp only [operandWidths, valuesFit_cons, valuesFit_nil] at h
    obtain ⟨n, _, -, rfl, rfl⟩ := h
    rfl
  | b2bk | padl | bk2b =>
    simp only [operandWidths, valuesFit_cons, valuesFit_nil] at h
    obtain ⟨n, _, -, ⟨b, _, -, rfl, rfl⟩, rfl⟩ := h
    rfl

/-- The operand words of a request. -/
def operandWords (lenw : Nat) (i : Instr) : List PortWord :=
  List.zipWith PortWord.mk (operandWidths lenw i.mnemonic) (operandValues i)

theorem encodeWords_eq (lenw : Nat) (i : Instr) :
    encodeWords lenw i = ⟨4, (opCode i.mnemonic).toNat⟩ :: operandWords lenw i := rfl

theorem operandWords_width (lenw : Nat) (i : Instr) :
    (operandWords lenw i).map PortWord.width = operandWidths lenw i.mnemonic :=
  width_zipWith_mk (operandValues_length lenw i)

theorem operandWords_value (lenw : Nat) (i : Instr) :
    (operandWords lenw i).map PortWord.value = operandValues i :=
  value_zipWith_mk (operandValues_length lenw i)

/-- Words are fixed by their widths and values. -/
theorem eq_operandWords {lenw : Nat} {i : Instr} {os : List PortWord}
    (hw : os.map PortWord.width = operandWidths lenw i.mnemonic) (hv : os.map PortWord.value = operandValues i) :
    operandWords lenw i = os := by
  rw [operandWords, ← hw, ← hv]
  simp

/-- A request is well formed exactly when each operand word fits its own width (R43). -/
theorem wf_iff_operandWords_fit (lenw : Nat) (i : Instr) :
    i.wf lenw = true ↔ ∀ o ∈ operandWords lenw i, o.value < 2 ^ o.width := by
  rw [wf_iff_valuesFit, ← valuesFit_words, operandWords_width, operandWords_value]

/-- What a tuple that reads as a request is made of: the code of an operation on four bits, then words of its format's
widths that fit them; the request has the operands these words carry. -/
theorem decodeWords_eq_ok {lenw : Nat} {ws : List PortWord} {i : Instr} :
    decodeWords lenw ws = .ok i ↔ ∃ m os, ws = ⟨4, (opCode m).toNat⟩ :: os ∧
      os.map PortWord.width = operandWidths lenw m ∧ (∀ o ∈ os, o.value < 2 ^ o.width) ∧
      operandsOfValues (os.map PortWord.value) m = i := by
  constructor
  · intro h
    cases ws with
    | nil => cases h
    | cons w os =>
      obtain ⟨width, value⟩ := w
      simp only [decodeWords] at h
      split at h
      case isFalse => cases h
      case isTrue hop =>
        obtain ⟨rfl, hvalue⟩ := hop
        cases hm : mnemonicOf (BitVec.ofNat 4 value) with
        | none => simp [hm] at h
        | some m =>
          simp only [hm] at h
          split_ifs at h with hwidths hfits
          have hcode : (opCode m).toNat = value := by
            rw [← mnemonicOf_eq_some.mp hm, BitVec.toNat_ofNat, Nat.mod_eq_of_lt hvalue]
          exact ⟨m, os, by rw [hcode], hwidths, by simpa [fitsPort] using hfits, Except.ok.inj h⟩
  · rintro ⟨m, os, rfl, hwidths, hfit, rfl⟩
    have hfits : os.all (fun o => fitsPort o.width o.value) = true := by simpa [fitsPort] using hfit
    have hcode : (opCode m).toNat < 16 := (opCode m).isLt
    simp [decodeWords, hcode, hwidths, hfits]

/-- Settles O4: the op word fits four bits, so only the operand words matter. -/
theorem wellFormedIffEveryValueFitsItsPort : Obligations.WellFormedIffEveryValueFitsItsPort := by
  unfold Obligations.WellFormedIffEveryValueFitsItsPort
  intro lenw i
  rw [wf_iff_operandWords_fit, encodeWords_eq, List.forall_mem_cons]
  exact (and_iff_right (opCode i.mnemonic).isLt).symm

/-- Settles O3: a request's own words carry its operands, and words that fit a format are those of the request they are
read as. -/
theorem portWordsRoundTrip : Obligations.PortWordsRoundTrip := by
  unfold Obligations.PortWordsRoundTrip
  constructor
  · intro lenw i hwf
    refine decodeWords_eq_ok.mpr ⟨i.mnemonic, operandWords lenw i, encodeWords_eq lenw i, operandWords_width lenw i,
      (wf_iff_operandWords_fit lenw i).mp hwf, ?_⟩
    rw [operandWords_value, operandsOfValues_operandValues]
  · intro lenw ws i h
    obtain ⟨m, os, rfl, hwidths, hfit, rfl⟩ := decodeWords_eq_ok.mp h
    have hvalues : operandValues (operandsOfValues (os.map PortWord.value) m) = os.map PortWord.value := by
      apply operandValues_operandsOfValues (lenw := lenw)
      rw [← hwidths]
      exact valuesFit_words.mpr hfit
    have hos : operandWords lenw (operandsOfValues (os.map PortWord.value) m) = os :=
      eq_operandWords (by rw [operandsOfValues_mnemonic, hwidths]) hvalues.symm
    rw [wf_iff_operandWords_fit, encodeWords_eq, hos, operandsOfValues_mnemonic]
    exact ⟨hfit, rfl⟩

/-- Settles O2: each tuple is read by the decoder as it stands. -/
theorem writtenWordsDecode : Obligations.WrittenWordsDecode := by
  unfold Obligations.WrittenWordsDecode
  decide

end Sys2Proof
end

section
/-! The decoder of the step and a single step: what each `op` code selects (R42, R43, R49), what the step makes of ports
that can and cannot be presented (R84, R98, R99), and that nothing else enters a response (R35). -/

namespace Sys2Proof.Machine

/-- An operation's code selects that operation, with the operands of its own format's ports (R42, R43). -/
theorem decode_of_opCode {p : Ports} {m : Mnemonic} (h : p.op = opCode m) : decode p = .ok (operandsFrom p m) :=
  decode_of_mnemonic (mnemonicOf_eq_some.mpr h)

/-- The reserved codes are rejected (R49). -/
theorem decode_of_reservedCode {p : Ports} (h : p.op = 0x0 ∨ 0x8 ≤ p.op) : decode p = .error (.reservedOp p.op) :=
  decode_of_reserved (mnemonicOf_eq_none.mpr h)

/-- The ports the encoder drives decode to the instruction they encode. -/
theorem decode_encode (i : Instr) : decode (encode i) = .ok i := by
  cases i with
  | henc => exact Laws.PortsRoundTrip.henc ..
  | hdec => exact Laws.PortsRoundTrip.hdec ..
  | b2bk => exact Laws.PortsRoundTrip.b2bk ..
  | padl => exact Laws.PortsRoundTrip.padl ..
  | isp2 => exact Laws.PortsRoundTrip.isp2 ..
  | bk2b => exact Laws.PortsRoundTrip.bk2b ..
  | rlay => exact Laws.PortsRoundTrip.rlay ..

/-- Settles O44: each code of the table selects its own operation, the other codes are reserved. -/
theorem decodeReadsNamedFormatPorts : Obligations.DecodeReadsNamedFormatPorts := by
  unfold Obligations.DecodeReadsNamedFormatPorts
  refine ⟨fun p => ?_, decode_encode⟩
  exact ⟨decode_of_opCode (m := .henc), decode_of_opCode (m := .hdec), decode_of_opCode (m := .b2bk),
    decode_of_opCode (m := .padl), decode_of_opCode (m := .isp2), decode_of_opCode (m := .bk2b),
    decode_of_opCode (m := .rlay), decode_of_reservedCode⟩

/-- A step on the ports of an operation runs it when its operands fit, and refuses the request by name when they do not
(R43, R98, U13). -/
theorem step_of_decode_ok {s : State} {p : Ports} {rest : List Ports} {i : Instr} (h : s.pending = p :: rest)
    (hd : decode p = .ok i) :
    step s = if i.wf s.cfg.lenw then exec i { s with pending := rest } else .refused .notPresentable := by
  simp [step, takeRequest_cons h, hd]

/-- Ports with a reserved code have no operands to present (R43, R47). -/
theorem presentable_of_reserved {p : Ports} (h : p.op = 0x0 ∨ 0x8 ≤ p.op) (lenw : Nat) : p.presentable lenw = true := by
  simp [Ports.presentable, decode_of_reservedCode h]

/-- Settles O5: the step is `exec` of the decoded request, whose operands fit. -/
theorem stepRunsDecodedRequest : Obligations.StepRunsDecodedRequest := by
  unfold Obligations.StepRunsDecodedRequest
  intro s p rest i hpending hdecode hwf
  rw [step_of_decode_ok hpending hdecode, if_pos hwf]

/-- Settles O7: the decoded request does not fit, which is the case the step refuses. -/
theorem stepRefusesUnpresentable : Obligations.StepRefusesUnpresentable := by
  unfold Obligations.StepRefusesUnpresentable
  intro s p rest i hpending hdecode hwf
  rw [step_of_decode_ok hpending hdecode, if_neg (by simp [hwf])]

/-- Settles O6: with nothing to take, the step is idle. -/
theorem stepWithoutRequestChangesNothing : Obligations.StepWithoutRequestChangesNothing := by
  unfold Obligations.StepWithoutRequestChangesNothing
  intro s hpending
  rw [step, takeRequest_nil hpending]
  rfl

/-- Settles O8: a reserved code is always presentable, and its transaction carries IllegalOp. -/
theorem reservedOpAnswersIllegalOp : Obligations.ReservedOpAnswersIllegalOp := by
  unfold Obligations.ReservedOpAnswersIllegalOp
  intro s p rest hpending hreserved
  rw [step_presentable hpending (presentable_of_reserved hreserved _),
    transactionOf_reserved (mnemonicOf_eq_none.mpr hreserved)]
  rfl

/-- Settles O1: the three fields of the reset state. -/
theorem resetHasNoResponse : Obligations.ResetHasNoResponse := by
  unfold Obligations.ResetHasNoResponse
  exact ⟨State.reset_trace, State.reset_pending, rfl⟩

/-- Settles O13: the two code tables, entry by entry. -/
theorem statusAndFieldCodes : Obligations.StatusAndFieldCodes := by
  unfold Obligations.StatusAndFieldCodes
  exact ⟨rfl, rfl, rfl, rfl, rfl, rfl, rfl, rfl, rfl, rfl⟩

/-- Settles O10: every operation records one transaction with its own answer. -/
theorem everyOperationAnswersAndChangesNothingElse : Obligations.EveryOperationAnswersAndChangesNothingElse := by
  unfold Obligations.EveryOperationAnswersAndChangesNothingElse
  intro i s
  exact ⟨responseOf (answerOf i), exec_eq i s⟩

/-- HENC returns a result only when both counts are in range, and it is the packed header (R55). -/
theorem hencAnswer_ok_cases {prg chr : Nat} {v b t f : Bool} {m : Byte} {r : Result}
    (h : hencAnswer prg chr v b t f m = .ok r) :
    prg ≤ 255 ∧ chr ≤ 255 ∧ r = .header (packHeader prg chr v b t f m) := by
  rcases Nat.lt_or_ge 255 prg with hprg | hprg
  · rw [hencAnswer_prg hprg] at h
    cases h
  rcases Nat.lt_or_ge 255 chr with hchr | hchr
  · rw [hencAnswer_chr hprg hchr] at h
    cases h
  · rw [hencAnswer_inRange hprg hchr] at h
    exact ⟨hprg, hchr, (Except.ok.inj h).symm⟩

/-- HDEC returns a result only for a header with the signature, and it is the unpacked fields (R56). -/
theorem hdecAnswer_ok_cases {hdr : Header} {r : Result} (h : hdecAnswer hdr = .ok r) :
    hasSignature hdr ∧ r = .fields (unpackHeader hdr) := by
  by_cases hsig : hasSignature hdr
  · rw [hdecAnswer_signed hsig] at h
    exact ⟨hsig, (Except.ok.inj h).symm⟩
  · rw [hdecAnswer_unsigned hsig] at h
    cases h

/-- The check of the bank size lets a result through only for a positive size (R65). -/
theorem withBankSize_ok_cases {b : Nat} {r r' : Result} (h : withBankSize b r = .ok r') : 0 < b ∧ r' = r := by
  rcases Nat.eq_zero_or_pos b with rfl | hb
  · rw [withBankSize_zero] at h
    cases h
  · rw [withBankSize_pos hb] at h
    exact ⟨hb, (Except.ok.inj h).symm⟩

/-- A result is of the format of the operation that returns it (R44). -/
theorem isOf_of_answerOf_ok {i : Instr} {r : Result} (h : answerOf i = .ok r) : r.isOf i.mnemonic = true := by
  cases i with
  | henc =>
    obtain ⟨-, -, rfl⟩ := hencAnswer_ok_cases h
    rfl
  | hdec =>
    obtain ⟨-, rfl⟩ := hdecAnswer_ok_cases h
    rfl
  | b2bk | padl =>
    obtain ⟨-, rfl⟩ := withBankSize_ok_cases h
    rfl
  | isp2 | bk2b | rlay =>
    cases h
    rfl

/-- Error bytes come with FORMAT_ERROR and with nothing else (R46). -/
theorem errorResponse_errBytes_iff (e : Exn) :
    (∃ bs, (errorResponse e).errBytes = some bs) ↔ (errorResponse e).status = .formatError := by
  cases e <;> simp [errorResponse]

/-- Settles O11: an answer is a result, responded with OK and no error port, or an exception, responded with its error
ports and no result. -/
theorem responseIsResultOrError : Obligations.ResponseIsResultOrError := by
  unfold Obligations.ResponseIsResultOrError
  intro i s
  cases hanswer : answerOf i with
  | ok r =>
    refine ⟨valid r, exec_of_answer_ok s hanswer, fun _ => ?_, fun hstatus => absurd rfl hstatus⟩
    exact ⟨⟨r, rfl, isOf_of_answerOf_ok hanswer⟩, rfl, rfl, rfl⟩
  | error e =>
    obtain ⟨hresult, hstatus, hfield, hvalue⟩ := errorResponse_shape e
    refine ⟨errorResponse e, exec_of_answer_error s hanswer, fun hok => absurd hok hstatus, fun _ => ?_⟩
    exact ⟨hresult, hfield, hvalue, errorResponse_errBytes_iff e⟩

/-- Settles O40: the step records the transaction of the ports, which names the decoded operation with its own answer,
or the reserved code. -/
theorem everyPresentableRequestIsAnswered : Obligations.EveryPresentableRequestIsAnswered := by
  unfold Obligations.EveryPresentableRequestIsAnswered
  intro s p rest hpending hpresentable
  refine ⟨transactionOf p, step_presentable hpending hpresentable, fun i hdecode => ?_, fun hreserved => ?_⟩
  · obtain ⟨hop, hoperands⟩ := decode_eq_ok.mp hdecode
    rw [transactionOf_operation (mnemonicOf_eq_some.mpr hop), hoperands]
    exact ⟨rfl, exec_eq i s⟩
  · rw [transactionOf_reserved (mnemonicOf_eq_none.mpr hreserved)]

/-- Decoding looks at `op` and at the ports of the selected operation's own format alone (R47, R50). -/
theorem decode_congr {p p' : Ports} (hop : p.op = p'.op) (he : p.op = 0x1 → p.e = p'.e) (hd : p.op = 0x2 → p.d = p'.d)
    (hs2 : p.op = 0x3 ∨ p.op = 0x4 → p.s2 = p'.s2) (hs1 : p.op = 0x5 → p.s1 = p'.s1) (hm : p.op = 0x6 → p.m = p'.m)
    (hl : p.op = 0x7 → p.l = p'.l) : decode p = decode p' := by
  cases hmnemonic : mnemonicOf p.op with
  | none => rw [decode_of_reserved hmnemonic, decode_of_reserved (hop ▸ hmnemonic), hop]
  | some m =>
    have hcode := mnemonicOf_eq_some.mp hmnemonic
    rw [decode_of_opCode hcode, decode_of_opCode (hop.symm.trans hcode)]
    cases m with
    | henc => rw [operandsFrom, operandsFrom, he hcode]
    | hdec => rw [operandsFrom, operandsFrom, hd hcode]
    | b2bk => rw [operandsFrom, operandsFrom, hs2 (.inl hcode)]
    | padl => rw [operandsFrom, operandsFrom, hs2 (.inr hcode)]
    | isp2 => rw [operandsFrom, operandsFrom, hs1 hcode]
    | bk2b => rw [operandsFrom, operandsFrom, hm hcode]
    | rlay => rw [operandsFrom, operandsFrom, hl hcode]

/-- Settles O9: ports that decode alike are presentable alike and make the same transaction. -/
theorem responseDependsOnOwnRequestOnly : Obligations.ResponseDependsOnOwnRequestOnly := by
  unfold Obligations.ResponseDependsOnOwnRequestOnly
  intro s s' p p' rest rest' t hcfg hpending hpending' hop he hd hs2 hs1 hm hl hstep
  have hdecode : decode p = decode p' := decode_congr hop he hd hs2 hs1 hm hl
  obtain ⟨hnil, -⟩ | ⟨q, qs, hcons, hpresentable, rfl⟩ := step_cases hstep
  · rw [hpending] at hnil
    cases hnil
  · obtain ⟨rfl, rfl⟩ : p = q ∧ rest = qs := by simpa [hpending] using hcons
    refine ⟨transactionOf p, rfl, ?_⟩
    have hpresentable' : p'.presentable s'.cfg.lenw = true := by
      rwa [Ports.presentable, ← hdecode, ← hcfg]
    rw [step_presentable hpending' hpresentable', transactionOf, transactionOf, hdecode]

/-- A response with the status BAD_ARG comes from a BadArg (R45, R80). -/
theorem responseOf_status_badArg_iff {answer : Except Exn Result} :
    (responseOf answer).status = .badArg ↔ ∃ bankSize, answer = .error (.badArg bankSize) := by
  rcases answer with (_ | _ | _ | _) | _ <;> simp [responseOf, okResponse, errorResponse]

/-- A response with the status ILLEGAL_OP comes from an IllegalOp (R45, R80). -/
theorem responseOf_status_illegalOp_iff {answer : Except Exn Result} :
    (responseOf answer).status = .illegalOp ↔ ∃ op, answer = .error (.illegalOp op) := by
  rcases answer with (_ | _ | _ | _) | _ <;> simp [responseOf, okResponse, errorResponse]

/-- A response has the status OK exactly when no exception was raised (R45, R80). -/
theorem responseOf_status_ok_iff {answer : Except Exn Result} :
    (responseOf answer).status = .ok ↔ ∀ e, answer ≠ .error e := by
  rcases answer with (_ | _ | _ | _) | _ <;> simp [responseOf, okResponse, errorResponse]

/-- B2BK and PADL raise a BadArg for a zero bank size (R65, R83). -/
theorem answerOfPorts_of_zero_bankSize {p : Ports} (hop : p.op = 0x3 ∨ p.op = 0x4) (h : p.s2.bankSize = 0) :
    answerOfPorts p = .error (.badArg 0) := by
  rcases hop with hop | hop
  · rw [answerOfPorts_operation (m := .b2bk) hop, operandsFrom, h, answerOf, withBankSize_zero]
  · rw [answerOfPorts_operation (m := .padl) hop, operandsFrom, h, answerOf, withBankSize_zero]

theorem answerOfPorts_of_reserved {p : Ports} (h : p.op = 0x0 ∨ 0x8 ≤ p.op) :
    answerOfPorts p = .error (.illegalOp p.op) :=
  answerOfPorts_reserved (mnemonicOf_eq_none.mpr h)

/-- A BadArg is raised by B2BK and PADL alone, for a zero bank size (R83). -/
theorem exists_answerOfPorts_badArg_iff {p : Ports} :
    (∃ bankSize, answerOfPorts p = .error (.badArg bankSize)) ↔ (p.op = 0x3 ∨ p.op = 0x4) ∧ p.s2.bankSize = 0 := by
  constructor
  · rintro ⟨bankSize, h⟩
    obtain ⟨-, -, he⟩ | ⟨-, -, he⟩ | ⟨-, -, he⟩ | ⟨hop, hzero, -⟩ | ⟨-, he⟩ := answerOfPorts_error_cases h
    case inr.inr.inr.inl => exact ⟨hop, hzero⟩
    all_goals cases he
  · rintro ⟨hop, hzero⟩
    exact ⟨0, answerOfPorts_of_zero_bankSize hop hzero⟩

/-- An IllegalOp is raised for a reserved code alone (R84). -/
theorem exists_answerOfPorts_illegalOp_iff {p : Ports} :
    (∃ op, answerOfPorts p = .error (.illegalOp op)) ↔ p.op = 0x0 ∨ 0x8 ≤ p.op := by
  constructor
  · rintro ⟨op, h⟩
    obtain ⟨-, -, he⟩ | ⟨-, -, he⟩ | ⟨-, -, he⟩ | ⟨-, -, he⟩ | ⟨hop, -⟩ := answerOfPorts_error_cases h
    case inr.inr.inr.inr => exact hop
    all_goals cases he
  · exact fun h => ⟨p.op, answerOfPorts_of_reserved h⟩

/-- Ports are answered with a result exactly when none of the four causes of R80 holds. -/
theorem answerOfPorts_ne_error_iff {p : Ports} :
    (∀ e, answerOfPorts p ≠ .error e) ↔
      ¬ (p.op = 0x2 ∧ ¬ hasSignature p.d.hdr) ∧ ¬ (p.op = 0x1 ∧ (255 < p.e.prgBanks ∨ 255 < p.e.chrBanks)) ∧
      ¬ ((p.op = 0x3 ∨ p.op = 0x4) ∧ p.s2.bankSize = 0) ∧ ¬ (p.op = 0x0 ∨ 0x8 ≤ p.op) := by
  constructor
  · intro hok
    refine ⟨fun hformat => ?_, fun ⟨hop, hcount⟩ => ?_, fun ⟨hop, hzero⟩ => ?_, fun hreserved => ?_⟩
    · exact hok _ (answerOfPorts_formatError_iff.mpr ⟨hformat, rfl⟩)
    · obtain ⟨_, _, hrange⟩ := answerOfPorts_of_count_above hop hcount
      exact hok _ hrange
    · exact hok _ (answerOfPorts_of_zero_bankSize hop hzero)
    · exact hok _ (answerOfPorts_of_reserved hreserved)
  · rintro ⟨hformat, hrange, hsize, hreserved⟩ e he
    obtain ⟨hop, hprg, -⟩ | ⟨hop, hchr, -⟩ | ⟨hop, hsig, -⟩ | ⟨hop, hzero, -⟩ | ⟨hop, -⟩ := answerOfPorts_error_cases he
    · exact hrange ⟨hop, .inl hprg⟩
    · exact hrange ⟨hop, .inr hchr⟩
    · exact hformat ⟨hop, hsig⟩
    · exact hsize ⟨hop, hzero⟩
    · exact hreserved hop

/-- Settles O12: a step's status is that of the answer to its ports, whose exceptions each have the one cause of R80. -/
theorem exceptionCausesAreComplete : Obligations.ExceptionCausesAreComplete := by
  unfold Obligations.ExceptionCausesAreComplete
  intro s p rest hpending hpresentable
  refine ⟨transactionOf p, step_presentable hpending hpresentable, ?_⟩
  rw [transactionOf_response]
  exact ⟨responseOf_status_badArg_iff.trans exists_answerOfPorts_badArg_iff,
    responseOf_status_illegalOp_iff.trans exists_answerOfPorts_illegalOp_iff,
    responseOf_status_ok_iff.trans answerOfPorts_ne_error_iff⟩

end Sys2Proof.Machine
end

section
/-! Bounds and identities of the Bank Sizer (R32, R33, R68, R71 to R77). -/

namespace Sys2Proof.Machine

/-- The identity of ISP2 holds exactly of the powers of two (R68, R78). -/
theorem isPowerOfTwo_iff (n : Nat) : isPowerOfTwo n = true ↔ ∃ k, n = 2 ^ k := by
  rw [isPowerOfTwo_eq_decide, decide_eq_true_iff]
  constructor
  · rintro ⟨hpos, hand⟩
    exact (Nat.and_sub_one_eq_zero_iff_isPowerOfTwo hpos.ne').mp hand
  · rintro ⟨k, rfl⟩
    have hpos : 0 < 2 ^ k := Nat.two_pow_pos k
    exact ⟨hpos, (Nat.and_sub_one_eq_zero_iff_isPowerOfTwo hpos.ne').mpr ⟨k, rfl⟩⟩

/-- Settles O29: the test holds of the powers of two, and one that fits the port has its exponent below the width. -/
theorem isp2RecognisesPowersOfTwo : Obligations.Isp2RecognisesPowersOfTwo := by
  unfold Obligations.Isp2RecognisesPowersOfTwo
  intro n s hwf
  have hfit : n < 2 ^ s.cfg.lenw := by simpa [Instr.wf, fitsPort] using hwf
  refine ⟨isPowerOfTwo n, exec_isp2 n s, ?_⟩
  rw [isPowerOfTwo_iff]
  constructor
  · rintro ⟨k, rfl⟩
    exact ⟨k, (Nat.pow_lt_pow_iff_right (by decide)).mp hfit, rfl⟩
  · rintro ⟨k, -, hn⟩
    exact ⟨k, hn⟩

theorem paddedTo_eq_ceilDiv_mul (n b : Nat) : paddedTo n b = ceilDiv n b * b := rfl

/-- Padding leaves exactly the whole numbers of banks as they are (R73, R74). -/
theorem paddedTo_eq_self_iff {n b : Nat} (hb : 0 < b) : paddedTo n b = n ↔ b ∣ n := by
  constructor
  · intro h
    exact h ▸ dvd_paddedTo n b
  · intro h
    exact le_antisymm (paddedTo_le_of_dvd hb h le_rfl) (le_paddedTo hb)

/-- One bank fewer does not hold a positive length (R73). -/
theorem pred_ceilDiv_mul_lt {n b : Nat} (hb : 0 < b) (hn : 0 < n) : (ceilDiv n b - 1) * b < n := by
  have hlt : paddedTo n b < n + b := paddedTo_lt hb
  rw [paddedTo_eq_ceilDiv_mul] at hlt
  rw [Nat.sub_mul, one_mul]
  omega

/-- Settles O33: the padded length is by definition the bank count times the bank size. -/
theorem padlAgreesWithB2bk : Obligations.PadlAgreesWithB2bk := by
  unfold Obligations.PadlAgreesWithB2bk
  intro n b s s' s'' hb
  exact ⟨ceilDiv n b, ceilDiv n b * b, exec_b2bk_pos hb n s, exec_padl_pos hb n s', exec_bk2b _ b s'', rfl,
    Nat.mul_div_cancel _ hb, Nat.mul_mod_left _ b⟩

/-- Settles O35: the bounds of the padded length, and one bank fewer being too few. -/
theorem paddingAndBankCountBounds : Obligations.PaddingAndBankCountBounds := by
  unfold Obligations.PaddingAndBankCountBounds
  intro n b s s' hb
  exact ⟨ceilDiv n b, paddedTo n b, exec_b2bk_pos hb n s, exec_padl_pos hb n s', le_paddedTo hb, paddedTo_lt hb,
    paddedTo_eq_self_iff hb, le_paddedTo hb, pred_ceilDiv_mul_lt hb⟩

/-- Settles O36: a product is a whole number of banks, so its quotient is the count and padding leaves it as it is. -/
theorem bk2bInvertsB2bkOnMultiples : Obligations.Bk2bInvertsB2bkOnMultiples := by
  unfold Obligations.Bk2bInvertsB2bkOnMultiples
  intro k b s s' s'' hb
  have hbanks := exec_b2bk_pos hb (k * b) s'
  have hpadded := exec_padl_pos hb (k * b) s''
  rw [ceilDiv_mul hb] at hbanks
  rw [(paddedTo_eq_self_iff hb).mpr (Nat.dvd_mul_left b k)] at hpadded
  exact ⟨k * b, exec_bk2b k b s, hbanks, hpadded⟩

/-! ### The region table -/

/-- The total length in the block's constants (R70). -/
theorem regionLayout_totalLen (t : Bool) (prg chr : Byte) :
    (regionLayout t prg chr).totalLen = 16 + (if t then 512 else 0) + prg.toNat * 16384 + chr.toNat * 8192 := rfl

theorem trainerLen_le (t : Bool) : (if t then 512 else 0) ≤ 512 := by
  cases t <;> decide

/-- The largest image: a trainer and 255 banks of each kind (R33). -/
theorem regionLayout_totalLen_le (t : Bool) (prg chr : Byte) : (regionLayout t prg chr).totalLen ≤ 6267408 := by
  have hprg := byte_toNat_lt prg
  have hchr := byte_toNat_lt chr
  have ht := trainerLen_le t
  rw [regionLayout_totalLen]
  omega

/-- The largest operands alone reach the upper bound (R33). -/
theorem regionLayout_totalLen_eq_max_iff (t : Bool) (prg chr : Byte) :
    (regionLayout t prg chr).totalLen = 6267408 ↔ t = true ∧ prg = 255 ∧ chr = 255 := by
  rw [regionLayout_totalLen, ← BitVec.toNat_inj, ← BitVec.toNat_inj]
  have hprg := byte_toNat_lt prg
  have hchr := byte_toNat_lt chr
  cases t <;> simp <;> omega

/-- The smallest operands alone give the header and nothing else (R33). -/
theorem regionLayout_totalLen_eq_min_iff (t : Bool) (prg chr : Byte) :
    (regionLayout t prg chr).totalLen = 16 ↔ t = false ∧ prg = 0 ∧ chr = 0 := by
  rw [regionLayout_totalLen, ← BitVec.toNat_inj, ← BitVec.toNat_inj]
  cases t <;> simp <;> omega

/-- The trainer moves both offsets and the total by 512 and changes no other length (R33). -/
theorem regionLayout_trainer (prg chr : Byte) :
    regionLayout true prg chr =
      { trainerLen := 512
        prgOffset := (regionLayout false prg chr).prgOffset + 512
        prgLen := (regionLayout false prg chr).prgLen
        chrOffset := (regionLayout false prg chr).chrOffset + 512
        chrLen := (regionLayout false prg chr).chrLen
        totalLen := (regionLayout false prg chr).totalLen + 512 } := by
  simp [regionLayout, headerSize, trainerSize]
  omega

/-- Settles O32: the offsets are sums of the lengths before them, the total is bounded by those of the extreme operands,
and the trainer shifts the table. -/
theorem regionsAreContiguousAndBounded : Obligations.RegionsAreContiguousAndBounded := by
  unfold Obligations.RegionsAreContiguousAndBounded
  constructor
  · intro t prg chr s
    have hmin : 16 ≤ (regionLayout t prg chr).totalLen := by
      rw [regionLayout_totalLen]
      omega
    exact ⟨regionLayout t prg chr, exec_rlay t prg chr s, rfl, rfl, rfl, rfl, hmin, regionLayout_totalLen_le t prg chr,
      regionLayout_totalLen_eq_max_iff t prg chr, regionLayout_totalLen_eq_min_iff t prg chr⟩
  · intro prg chr s
    refine ⟨regionLayout false prg chr, regionLayout true prg chr, exec_rlay false prg chr s,
      exec_rlay true prg chr s, ?_⟩
    rw [regionLayout_trainer]
    exact ⟨rfl, rfl, rfl, rfl, rfl⟩

/-- Settles O37: both lengths of the table are BK2B's products of a count and a bank size. -/
theorem rlayIsBuiltFromBk2b : Obligations.RlayIsBuiltFromBk2b := by
  unfold Obligations.RlayIsBuiltFromBk2b
  intro t prg chr s s' s''
  refine ⟨regionLayout t prg chr, exec_rlay t prg chr s, exec_bk2b prg.toNat 16384 s', exec_bk2b chr.toNat 8192 s'',
    rfl, rfl, rfl, ?_⟩
  rintro rfl
  exact regionLayout_totalLen false prg chr

/-! ### Results fit their ports -/

/-- A number that fits one bit more than an operand port fits a result port (R8). -/
theorem lt_two_pow_resw {c : Config} {n : Nat} (hc : 23 ≤ c.lenw) (h : n < 2 ^ (c.lenw + 1)) : n < 2 ^ c.resw := by
  have hwidth : c.lenw + 1 ≤ c.resw := by
    rw [Config.resw]
    omega
  exact h.trans_le (Nat.pow_le_pow_right (by decide) hwidth)

/-- A padded length fits one bit more than its operands (R77). -/
theorem paddedTo_lt_two_pow_succ {w n b : Nat} (hb : 0 < b) (hn : n < 2 ^ w) (hbw : b < 2 ^ w) :
    paddedTo n b < 2 ^ (w + 1) := by
  have h := paddedTo_lt (n := n) hb
  rw [pow_succ]
  omega

/-- A bank count is at most the length, so it fits one bit more than the length's port too (R77). -/
theorem ceilDiv_lt_two_pow_succ {w n b : Nat} (hb : 0 < b) (hn : n < 2 ^ w) : ceilDiv n b < 2 ^ (w + 1) := by
  have h := ceilDiv_le_self (n := n) hb
  rw [pow_succ]
  omega

/-- The constraint of R8 is what makes every region length fit an operand port (R77). -/
theorem two_pow_23_le {c : Config} (hc : 23 ≤ c.lenw) : 2 ^ 23 ≤ 2 ^ c.lenw := Nat.pow_le_pow_right (by decide) hc

/-- The six numbers of the region table fit their ports, being at most the total length (R77). -/
theorem regionLayout_fits {c : Config} (hc : 23 ≤ c.lenw) (t : Bool) (prg chr : Byte) :
    (Result.layout (regionLayout t prg chr)).fits c.resw = true := by
  have hfit : ∀ n ≤ (regionLayout t prg chr).totalLen, n < 2 ^ c.resw := by
    intro n hn
    have hmax := regionLayout_totalLen_le t prg chr
    have hport := two_pow_23_le hc
    apply lt_two_pow_resw hc
    rw [pow_succ]
    omega
  simp only [Result.fits, fitsPort, Bool.and_eq_true, decide_eq_true_eq]
  refine ⟨⟨⟨⟨⟨hfit _ ?_, hfit _ ?_⟩, hfit _ ?_⟩, hfit _ ?_⟩, hfit _ ?_⟩, hfit _ le_rfl⟩ <;>
    simp only [regionLayout] <;> omega

/-- Settles O39: a bank count is at most the length, a padded length fits one bit more, a product fits twice the width,
and the region table stays below `2^23`. -/
theorem noResultOverflowsItsPort : Obligations.NoResultOverflowsItsPort := by
  unfold Obligations.NoResultOverflowsItsPort
  intro s n b t prg chr hlenw hn hbw
  refine ⟨fun hb => ?_, ?_, ?_⟩
  · have hpadded := paddedTo_lt_two_pow_succ hb hn hbw
    exact ⟨ceilDiv n b, paddedTo n b, exec_b2bk_pos hb n s, ceilDiv_le_self hb, exec_padl_pos hb n s, paddedTo_lt hb,
      hpadded, lt_two_pow_resw hlenw (ceilDiv_lt_two_pow_succ hb hn), lt_two_pow_resw hlenw hpadded⟩
  · exact ⟨n * b, exec_bk2b n b s, mul_lt_two_pow_double hn hbw⟩
  · exact ⟨regionLayout t prg chr, exec_rlay t prg chr s, regionLayout_totalLen_le t prg chr, by decide,
      two_pow_23_le hlenw, regionLayout_fits hlenw t prg chr⟩

end Sys2Proof.Machine
end

section
/-! The strict headers, which are the ones HENC writes, what HDEC ignores, and the 128-bit vector of a header (R24, R27,
R28, R59). -/

namespace Sys2Proof.Machine

/-- A header that loses nothing in HDEC: the signature, byte 7 bits 3:0 zero and bytes 8 to 15 zero (R59). -/
def StrictHeader (hdr : Header) : Prop :=
  hasSignature hdr ∧ hdr[7].extractLsb' 0 4 = 0#4 ∧ ∀ k : Fin 16, 8 ≤ k.val → hdr[k] = 0

/-- Two headers with one high nibble in byte 7 and every other byte alike unpack alike (R27). -/
theorem unpackHeader_congr {hdr hdr' : Header} (h : ∀ k : Fin 16, k ≠ 7 → hdr[k] = hdr'[k])
    (h7 : hdr[7].extractLsb' 4 4 = hdr'[7].extractLsb' 4 4) : unpackHeader hdr = unpackHeader hdr' := by
  have hbyte : ∀ (k : Nat) (hk : k < 16), k ≠ 7 → hdr[k] = hdr'[k] :=
    fun k hk hne => h ⟨k, hk⟩ (by simpa [Fin.ext_iff] using hne)
  simp only [unpackHeader, signatureBytes, reservedBytes, mapperHigh_eq_extract, mapperOf_eq_append, h7]
  simp [hbyte]

/-- Settles O19: HDEC's answer uses the signature bytes and the unpacked fields, none of which reads those bits. -/
theorem hdecIgnoresByteSevenLowNibble : Obligations.HdecIgnoresByteSevenLowNibble := by
  unfold Obligations.HdecIgnoresByteSevenLowNibble
  intro hdr hdr' s hbytes hseven
  have hfields : unpackHeader hdr = unpackHeader hdr' := unpackHeader_congr hbytes hseven
  have hmagic : signatureBytes hdr = signatureBytes hdr' := congrArg HeaderFields.magic hfields
  refine ⟨responseOf (hdecAnswer hdr), exec_eq (.hdec hdr) s, ?_⟩
  rw [hdecAnswer, hfields, hmagic]
  exact exec_eq (.hdec hdr') s

/-- HENC writes strict headers (R27, R28). -/
theorem strictHeader_packHeader (prg chr : Nat) (v b t f : Bool) (m : Byte) :
    StrictHeader (packHeader prg chr v b t f m) := by
  refine ⟨hasSignature_packHeader prg chr v b t f m, ?_, ?_⟩
  · have hseven : (packHeader prg chr v b t f m)[7] = controlByte2 m := rfl
    rw [hseven, controlByte2_eq_append]
    exact BitVec.extractLsb'_append_eq_right
  · rintro ⟨k, hk16⟩ hk
    interval_cases k <;> rfl

/-- The header HENC writes for unpacked fields (R59). -/
def packFields (fl : HeaderFields) : Header :=
  packHeader fl.prgBanks.toNat fl.chrBanks.toNat fl.mirroringVertical fl.hasBattery fl.hasTrainer fl.fourScreenVram
    fl.mapperNumber

/-- A byte is its high nibble and its four low bits joined (R26). -/
theorem highNibble_append_bits (c : Byte) :
    c.extractLsb' 4 4 ++ BitVec.ofBool (c.getLsbD 3) ++ BitVec.ofBool (c.getLsbD 2) ++ BitVec.ofBool (c.getLsbD 1) ++
      BitVec.ofBool (c.getLsbD 0) = c := by
  revert c; decide

/-- A count byte is written back as it was read (R55, R56). -/
@[simp] theorem countByte_toNat_byte (c : Byte) : countByte c.toNat = c := by
  simp [countByte]

/-- Byte 6 is put together again from the fields read from it (R26). -/
theorem controlByte1_of_fields (c c' : Byte) :
    controlByte1 (mirroringFlag c) (batteryFlag c) (trainerFlag c) (fourScreenFlag c) (mapperOf c c') = c := by
  rw [controlByte1_eq_append, mapperOf_eq_append, BitVec.extractLsb'_append_eq_right]
  exact highNibble_append_bits c

/-- Byte 7 keeps its high nibble when it is put together again from the mapper number (R27). -/
theorem controlByte2_mapperOf_highNibble (c c' : Byte) :
    (controlByte2 (mapperOf c c')).extractLsb' 4 4 = c'.extractLsb' 4 4 := by
  rw [controlByte2_highNibble, mapperOf_eq_append, BitVec.extractLsb'_append_eq_left]

/-- A strict header is fixed by its counts, byte 6 and the high nibble of byte 7 (R59). -/
theorem StrictHeader.ext {hdr hdr' : Header} (h : StrictHeader hdr) (h' : StrictHeader hdr') (h4 : hdr[4] = hdr'[4])
    (h5 : hdr[5] = hdr'[5]) (h6 : hdr[6] = hdr'[6]) (h7 : hdr[7].extractLsb' 4 4 = hdr'[7].extractLsb' 4 4) :
    hdr = hdr' := by
  obtain ⟨⟨s0, s1, s2, s3⟩, hlow, hzero⟩ := h
  obtain ⟨⟨s0', s1', s2', s3'⟩, hlow', hzero'⟩ := h'
  have hseven : hdr[7] = hdr'[7] := by
    rw [← highNibble_append_lowNibble hdr[7], ← highNibble_append_lowNibble hdr'[7], h7, hlow, hlow']
  apply Vector.ext
  intro k hk
  rcases Nat.lt_or_ge k 8 with hlt | hge
  · interval_cases k
    · exact s0.trans s0'.symm
    · exact s1.trans s1'.symm
    · exact s2.trans s2'.symm
    · exact s3.trans s3'.symm
    · exact h4
    · exact h5
    · exact h6
    · exact hseven
  · exact (hzero ⟨k, hk⟩ hge).trans (hzero' ⟨k, hk⟩ hge).symm

/-- Packing the unpacked fields gives a header back exactly when it is strict (R59). -/
theorem packFields_unpackHeader_eq_iff (hdr : Header) : packFields (unpackHeader hdr) = hdr ↔ StrictHeader hdr := by
  have hstrict : StrictHeader (packFields (unpackHeader hdr)) := strictHeader_packHeader ..
  constructor
  · intro h
    exact h ▸ hstrict
  · intro h
    refine hstrict.ext h ?_ ?_ (controlByte1_of_fields hdr[6] hdr[7]) (controlByte2_mapperOf_highNibble hdr[6] hdr[7])
    · exact countByte_toNat_byte hdr[4]
    · exact countByte_toNat_byte hdr[5]

/-- The counts of unpacked fields are in range, so HENC packs them (R58, R59). -/
theorem exec_henc_fields {fl : HeaderFields} {i : Instr}
    (hi : i = .henc fl.prgBanks.toNat fl.chrBanks.toNat fl.mirroringVertical fl.hasBattery fl.hasTrainer
      fl.fourScreenVram fl.mapperNumber) (s : State) :
    exec i s = .next (answered s i (valid (.header (packFields fl)))) := by
  subst hi
  exact exec_henc_inRange (Nat.le_of_lt_succ fl.prgBanks.isLt) (Nat.le_of_lt_succ fl.chrBanks.isLt) ..

/-- Settles O21: HENC packs the unpacked fields, which gives the header back exactly when it is strict. -/
theorem encodeOfDecodeOnlyOnStrictHeaders : Obligations.EncodeOfDecodeOnlyOnStrictHeaders := by
  unfold Obligations.EncodeOfDecodeOnlyOnStrictHeaders
  intro hdr s s' hsig
  refine ⟨unpackHeader hdr, packFields (unpackHeader hdr), _, exec_hdec_signed hsig s, rfl, exec_henc_fields rfl s', ?_⟩
  rw [packFields_unpackHeader_eq_iff, StrictHeader, and_iff_right hsig]

/-- An operation that completes with a result had it as its answer. -/
theorem answerOf_of_exec_valid {i : Instr} {s : State} {r : Result}
    (h : exec i s = .next (answered s i (valid r))) : answerOf i = .ok r := by
  rw [exec_eq, record_op_eq_answered] at h
  have hresponse : responseOf (answerOf i) = valid r := by simpa [answered] using h
  cases hanswer : answerOf i with
  | ok r' => simpa [hanswer, responseOf, okResponse, valid] using hresponse
  | error e =>
    have hstatus := congrArg Response.status hresponse
    rw [hanswer] at hstatus
    obtain ⟨-, hne, -⟩ := errorResponse_shape e
    exact absurd hstatus hne

/-- HENC returns a header only by packing its operands (R55). -/
theorem eq_packHeader_of_exec_henc {prg chr : Nat} {v b t f : Bool} {m : Byte} {s : State} {hdr : Header}
    (h : exec (.henc prg chr v b t f m) s = .next (answered s (.henc prg chr v b t f m) (valid (.header hdr)))) :
    hdr = packHeader prg chr v b t f m := by
  obtain ⟨-, -, hr⟩ := hencAnswer_ok_cases (answerOf_of_exec_valid h)
  exact Result.header.inj hr

/-- HENC packs strict headers only, and every strict header is packed from its own fields (R59). -/
theorem exists_exec_henc_iff (hdr : Header) (s : State) :
    (∃ prg chr v b t f m,
      exec (.henc prg chr v b t f m) s = .next (answered s (.henc prg chr v b t f m) (valid (.header hdr)))) ↔
    StrictHeader hdr := by
  constructor
  · rintro ⟨prg, chr, v, b, t, f, m, h⟩
    rw [eq_packHeader_of_exec_henc h]
    exact strictHeader_packHeader prg chr v b t f m
  · intro hstrict
    have hpack := exec_henc_fields (fl := unpackHeader hdr) rfl s
    rw [(packFields_unpackHeader_eq_iff hdr).mpr hstrict] at hpack
    exact ⟨_, _, _, _, _, _, _, hpack⟩

/-- Settles O22: the headers HENC returns are the strict ones. -/
theorem hencImageIsStrictHeaders : Obligations.HencImageIsStrictHeaders := by
  unfold Obligations.HencImageIsStrictHeaders
  exact exists_exec_henc_iff

/-- The operands of HENC with counts in range. -/
abbrev HencOperands := Byte × Byte × Bool × Bool × Bool × Bool × Byte

/-- The header of operands with counts in range. -/
def packOperands : HencOperands → Header
  | (prg, chr, v, b, t, f, m) => packHeader prg.toNat chr.toNat v b t f m

/-- HDEC gives the operands back (R58), so no two pack to one header. -/
theorem packOperands_injective : Function.Injective packOperands := by
  rintro ⟨prg, chr, v, b, t, f, m⟩ ⟨prg', chr', v', b', t', f', m'⟩ h
  have hfields := congrArg unpackHeader h
  simp only [packOperands, unpackHeader_packHeader, countByte_toNat_byte, HeaderFields.mk.injEq] at hfields
  obtain ⟨-, rfl, rfl, rfl, rfl, rfl, rfl, -, -, rfl, -⟩ := hfields
  rfl

theorem card_hencOperands : Nat.card HencOperands = 2 ^ 28 := by
  simp [HencOperands, ← FinEnum.card_eq_fintypeCard]

/-- The strict headers are the packed ones (R59). -/
theorem range_packOperands : Set.range packOperands = { hdr | StrictHeader hdr } := by
  ext hdr
  constructor
  · rintro ⟨⟨prg, chr, v, b, t, f, m⟩, rfl⟩
    exact strictHeader_packHeader ..
  · intro hstrict
    exact ⟨(_, _, _, _, _, _, _), (packFields_unpackHeader_eq_iff hdr).mpr hstrict⟩

/-- Settles O23: the headers HENC can return are the strict ones, one for each choice of operands with counts in
range. -/
theorem hencImageHasTwoPow28Members : Obligations.HencImageHasTwoPow28Members := by
  unfold Obligations.HencImageHasTwoPow28Members
  intro s
  simp only [exists_exec_henc_iff]
  rw [← range_packOperands, Set.ncard_range_of_injective packOperands_injective, card_hencOperands]

/-! ### The 128-bit vector -/

/-- Bit `8*k + j` of the vector is bit `j` of byte `k` (R24). -/
theorem getLsbD_flattenHeader (hdr : Header) {k j : Nat} (hk : k < 16) (hj : j < 8) :
    (flattenHeader hdr).getLsbD (8 * k + j) = hdr[k].getLsbD j := by
  rw [flattenHeader, BitVec.getLsbD_ofFnLE, dif_pos (by omega)]
  simp [Nat.mul_add_div, Nat.div_eq_of_lt hj, Nat.mod_eq_of_lt hj]

/-- Byte `k` of the vector is byte `k` of the header (R24). -/
theorem flattenHeader_byte (hdr : Header) {k : Nat} (hk : k < 16) :
    (flattenHeader hdr).extractLsb' (8 * k) 8 = hdr[k] := by
  apply BitVec.eq_of_getLsbD_eq
  intro j hj
  rw [BitVec.getLsbD_extractLsb', getLsbD_flattenHeader hdr hk hj]
  simp [hj]

theorem unflattenHeader_flattenHeader (hdr : Header) : unflattenHeader (flattenHeader hdr) = hdr := by
  apply Vector.ext
  intro k hk
  rw [unflattenHeader, Vector.getElem_ofFn, flattenHeader_byte hdr hk]

theorem flattenHeader_unflattenHeader (w : BitVec 128) : flattenHeader (unflattenHeader w) = w := by
  apply BitVec.eq_of_getLsbD_eq
  intro j hj
  have hbyte := getLsbD_flattenHeader (unflattenHeader w) (k := j / 8) (j := j % 8) (by omega) (by omega)
  rw [Nat.div_add_mod] at hbyte
  rw [hbyte, unflattenHeader, Vector.getElem_ofFn, BitVec.getLsbD_extractLsb', Nat.div_add_mod]
  simp
  omega

/-- Settles O24: each byte of the header is its own eight bits of the vector, so neither direction loses a bit. -/
theorem headerFlattensBytewise : Obligations.HeaderFlattensBytewise := by
  unfold Obligations.HeaderFlattensBytewise
  exact ⟨fun hdr k => flattenHeader_byte hdr k.isLt, unflattenHeader_flattenHeader, flattenHeader_unflattenHeader⟩

end Sys2Proof.Machine
end

section
/-! Runs: every step keeps a good run good, and a run answers its requests one by one (R35, R77, R94, R98, R100). -/

namespace Sys2Proof.Machine

/-! ### Responses fit their ports -/

/-- A response with status OK carries no number but those of its result (R44). -/
theorem okResponse_fits {c : Config} {r : Result} (h : r.fits c.resw = true) :
    (okResponse r).fits c = true := by
  simp [Response.fits, okResponse, h]

theorem wf_henc_iff (lenw prg chr : Nat) (v b t f : Bool) (m : Byte) :
    (Instr.henc prg chr v b t f m).wf lenw = true ↔ prg < 2 ^ lenw ∧ chr < 2 ^ lenw := by
  simp [Instr.wf, fitsPort]

theorem wf_b2bk_iff (lenw n b : Nat) : (Instr.b2bk n b).wf lenw = true ↔ n < 2 ^ lenw ∧ b < 2 ^ lenw := by
  simp [Instr.wf, fitsPort]

/-- The results of a request that fits its ports fit theirs (R77). -/
theorem result_fits {c : Config} {i : Instr} {r : Result} (hc : 23 ≤ c.lenw) (hwf : i.wf c.lenw = true)
    (h : answerOf i = .ok r) : r.fits c.resw = true := by
  cases i with
  | henc =>
    obtain ⟨-, -, rfl⟩ := hencAnswer_ok_cases h
    rfl
  | hdec =>
    obtain ⟨-, rfl⟩ := hdecAnswer_ok_cases h
    rfl
  | b2bk n b =>
    obtain ⟨hb, rfl⟩ := withBankSize_ok_cases h
    obtain ⟨hn, -⟩ := (wf_b2bk_iff _ n b).mp hwf
    exact decide_eq_true (lt_two_pow_resw hc (ceilDiv_lt_two_pow_succ hb hn))
  | padl n b =>
    obtain ⟨hb, rfl⟩ := withBankSize_ok_cases h
    obtain ⟨hn, hbw⟩ := (wf_padl_iff _ n b).mp hwf
    exact decide_eq_true (lt_two_pow_resw hc (paddedTo_lt_two_pow_succ hb hn hbw))
  | isp2 =>
    cases h
    rfl
  | bk2b k b =>
    cases h
    obtain ⟨hk, hb⟩ := (wf_bk2b_iff _ k b).mp hwf
    exact decide_eq_true (mul_lt_two_pow_double hk hb)
  | rlay t prg chr =>
    cases h
    exact regionLayout_fits hc t prg chr

/-- An error response carries one number, the value it records (R46). -/
theorem errorResponse_fits {c : Config} {e : Exn} {v : Nat} (hv : (errorResponse e).errValue = some v)
    (h : v < 2 ^ c.lenw) : (errorResponse e).fits c = true := by
  obtain ⟨hresult, -⟩ := errorResponse_shape e
  simp [Response.fits, hresult, hv, fitsPort, h]

/-- The number recorded by an exception of a request that fits its ports is 0 or one of its operands, so it fits the
error port (R46). -/
theorem exception_fits {c : Config} {i : Instr} {e : Exn} (hwf : i.wf c.lenw = true) (h : answerOf i = .error e) :
    (errorResponse e).fits c = true := by
  have hzero : 0 < 2 ^ c.lenw := Nat.two_pow_pos _
  cases i with
  | henc prg chr v b t f m =>
    obtain ⟨hprg, hchr⟩ := (wf_henc_iff _ prg chr v b t f m).mp hwf
    obtain ⟨-, rfl⟩ | ⟨-, rfl⟩ := hencAnswer_error_cases h
    · exact errorResponse_fits rfl hprg
    · exact errorResponse_fits rfl hchr
  | hdec =>
    obtain ⟨-, rfl⟩ := hdecAnswer_error_cases h
    exact errorResponse_fits rfl hzero
  | b2bk | padl =>
    obtain ⟨rfl, rfl⟩ := withBankSize_error_cases h
    exact errorResponse_fits rfl hzero
  | isp2 | bk2b | rlay => cases h

/-- The response to a request that fits its ports fits the ports of an admissible block (R46, R77). -/
theorem responseOf_answerOf_fits {c : Config} {i : Instr} (hc : 23 ≤ c.lenw) (hwf : i.wf c.lenw = true) :
    (responseOf (answerOf i)).fits c = true := by
  cases hanswer : answerOf i with
  | ok r => exact okResponse_fits (result_fits hc hwf hanswer)
  | error e => exact exception_fits hwf hanswer

/-- An `op` code fits the error port of an admissible block (R46, R84). -/
theorem illegalOp_fits {c : Config} (hc : 23 ≤ c.lenw) (op : OpCode) :
    (errorResponse (.illegalOp op)).fits c = true := by
  have hop : op.toNat < 2 ^ 4 := op.isLt
  have hport := two_pow_23_le hc
  exact errorResponse_fits rfl (by omega)

/-- The ports of an operation can be presented when its operands fit them (R43). -/
theorem presentable_of_opCode {p : Ports} {m : Mnemonic} (h : p.op = opCode m) (lenw : Nat) :
    p.presentable lenw = (operandsFrom p m).wf lenw := by
  simp [Ports.presentable, decode_of_opCode h]

/-- The transaction of ports that can be presented fits the ports of an admissible block (R43, R46, R77). -/
theorem transactionOf_fits {c : Config} {p : Ports} (hc : 23 ≤ c.lenw) (hp : p.presentable c.lenw = true) :
    (transactionOf p).request.fits c = true ∧ (transactionOf p).response.fits c = true := by
  cases hm : mnemonicOf p.op with
  | none =>
    rw [transactionOf_reserved hm]
    exact ⟨rfl, illegalOp_fits hc p.op⟩
  | some m =>
    rw [presentable_of_opCode (mnemonicOf_eq_some.mp hm)] at hp
    rw [transactionOf_operation hm]
    exact ⟨hp, responseOf_answerOf_fits hc hp⟩

/-! ### Good runs -/

/-- A block just after reset answers presentable ports with their transaction (R94). -/
theorem firstAnswer_presentable {c : Config} {p : Ports} (hp : p.presentable c.lenw = true) :
    firstAnswer c p = some (transactionOf p) := by
  have hstep := step_presentable (s := { State.reset with cfg := c, pending := [p] }) rfl hp
  rw [firstAnswer, hstep]
  rfl

/-- The transaction added by a step meets each clause of a good run. -/
theorem GoodRun.append_transaction {s : State} {p : Ports} (h : GoodRun s) (hp : p.presentable s.cfg.lenw = true)
    (rest : List Ports) : GoodRun { cfg := s.cfg, pending := rest, trace := s.trace ++ [transactionOf p] } := by
  obtain ⟨hwidth, hrequests, hresponses, hstateless⟩ := h
  have hc : 23 ≤ s.cfg.lenw := of_decide_eq_true hwidth
  obtain ⟨hrequest, hresponse⟩ := transactionOf_fits hc hp
  refine ⟨hwidth, ?_, ?_, ?_⟩
  all_goals rw [List.forall_mem_append, List.forall_mem_singleton]
  · exact ⟨hrequests, hrequest⟩
  · exact ⟨hresponses, hresponse⟩
  · exact ⟨hstateless, p, firstAnswer_presentable hp⟩

/-- Settles O41: a step changes nothing or adds the transaction of presentable ports. -/
theorem stepKeepsGoodRun : Obligations.StepKeepsGoodRun := by
  unfold Obligations.StepKeepsGoodRun
  intro s s' hgood hstep
  obtain ⟨-, rfl⟩ | ⟨p, rest, -, hpresentable, rfl⟩ := step_cases hstep
  · exact hgood
  · exact hgood.append_transaction hpresentable rest

/-- Settles O42: the width at reset is admissible, and there is no transaction yet. -/
theorem resetIsGoodRun : Obligations.ResetIsGoodRun := by
  unfold Obligations.ResetIsGoodRun
  exact ⟨rfl, by simp, by simp, by simp⟩

/-! ### A run of presentable requests -/

theorem run_succ {s s' : State} (h : step s = .next s') (k : Nat) : core.run (k + 1) s = core.run k s' := by
  have hstep : core.step s = .next s' := h
  simp [Host.Core.run, hstep]

/-- A run of presentable requests records the transaction of each, in order, and leaves none pending (R98, R100). -/
theorem run_presentable (c : Config) (ps : List Ports) (done : List Transaction)
    (h : ∀ p ∈ ps, p.presentable c.lenw = true) :
    core.run ps.length { cfg := c, pending := ps, trace := done } =
      .next { cfg := c, pending := [], trace := done ++ ps.map transactionOf } := by
  induction ps generalizing done with
  | nil => simp [Host.Core.run]
  | cons p ps ih =>
    obtain ⟨hp, hps⟩ := List.forall_mem_cons.mp h
    rw [List.length_cons, run_succ (step_presentable rfl hp), ih _ hps, List.append_assoc]
    rfl

/-- Settles O43: each request's transaction is the one it makes first after reset, and the run records them in order. -/
theorem runAnswersEachRequestInOrder : Obligations.RunAnswersEachRequestInOrder := by
  unfold Obligations.RunAnswersEachRequestInOrder
  intro s h
  have hfirst : ∀ p ∈ s.pending, firstAnswer s.cfg p = some (transactionOf p) :=
    fun p hp => firstAnswer_presentable (h p hp)
  have hall : s.pending.filterMap (firstAnswer s.cfg) = s.pending.map transactionOf := by
    rw [List.filterMap_congr hfirst, List.filterMap_eq_map']
  refine ⟨fun p hp => Option.isSome_of_eq_some (hfirst p hp), ?_⟩
  rw [hall]
  exact run_presentable s.cfg s.pending s.trace h

end Sys2Proof.Machine
end
